-- ==== Sys2Proof/Word.lean ====
section
/-!
DEFINITION. The word types of the block, each with the width the spec gives it (00_scope.md R6), and the two
one-bit registers whose values the spec names.
-/

namespace Sys2Proof

/-- The event mask, `EVT_W` = 8 bits. -/
abbrev Byte := BitVec 8

/-- The step index, `IDX_W` = 3 bits (R23). -/
abbrev StepIndex := BitVec 3

/-- A table entry and the coil output, `COIL_W` = 4 bits (R28, R50). -/
abbrev Pattern := BitVec 4

/-- The burst counter, `BURST_W` = 13 bits (R27). -/
abbrev BurstCount := BitVec 13

/-- The event word `{evt_valid, evt_mask}` (R71). -/
abbrev EventWord := BitVec 9

/-- The sequencer selector `{phase, expire, en, dir, last}` (R77). -/
abbrev Selector := BitVec 5

/-- The inputs sampled at one edge, `{rst, evt_valid, evt_mask}` (R82). -/
abbrev InputWord := BitVec 10

/-- The values of the register `dir` (R22). -/
inductive Dir where
  /-- Clockwise, `DIR_CW` = 0: the index increases. -/
  | cw
  /-- CounterClockwise, `DIR_CCW` = 1: the index decreases. -/
  | ccw
deriving DecidableEq, Repr

/-- The values of the register `phase` (R25). -/
inductive Phase where
  /-- `IDLE_HOLD` = 0: the dwell of the disabled branch. -/
  | idleHold
  /-- `STEP_HOLD` = 1: the hold of one step. -/
  | stepHold
deriving DecidableEq, Repr

end Sys2Proof
end

