-- ==== Sys2Proof/Config.lean ====
section
/-!
DEFINITION. What an implementation fixes (00_scope.md R6, 10_state.md R30) and the free values of the model.
The literals the source fixes (codes, lengths, the default table) stand in Sys2Proof/Machine/Params.lean.
-/

namespace Sys2Proof

/-- The parameters a model takes as an argument: `OPEN` in R6 (`HOLD_TICKS`, `CLK_HZ`), the table of R53 and R54
(D5, I6), and `COIL_MAP` (R56, D6, I7).
DESIGN CHOICE (log 1): they are one field of State that nothing writes, so every statement over all states is a
statement over all configurations. -/
structure Config where
  /-- `STEP_PATTERN`, the 8-entry read-only table (R50, R52). -/
  stepPattern : Vector Pattern 8
  /-- `HOLD_TICKS`, clock cycles in one hold or idle dwell (R6, R111). -/
  holdTicks : Nat
  /-- `CLK_HZ`, the clock frequency in hertz (R6). -/
  clkHz : Nat
  /-- `COIL_MAP`: entry i is the driver input that `coil[i]` reaches (R56); no rule of the block reads it (log 14). -/
  coilMap : Vector (Fin 4) 4
deriving DecidableEq, Repr

/-- FREE VALUE (log 4): the input word of an edge for which no stimulus is queued. The environment may present any
`rst`, `evt_valid` and `evt_mask` at any edge (R162), and the end of a stimulus program says nothing of later edges
(R83), so nothing is known of this value. -/
opaque Config.freeInput : Nat → InputWord

end Sys2Proof
end

