-- ==== Sys2Proof/Machine/Params.lean ====
section
/-!
DEFINITION. The literals of 00_scope.md R6, each a named constant (D2, D7: a correction is one edit), what a legal
configuration is (R7, R53), and the default configuration of the state after reset.
-/

namespace Sys2Proof.Machine

/-- `CODE_BTN0`: Button0, enable (R6, R73, D7). -/
abbrev codeBtn0 : Byte := 0x04#8

/-- `CODE_BTN1`: Button1, disable (R6, R73, D7). -/
abbrev codeBtn1 : Byte := 0x08#8

/-- `CODE_BTN2`: Button2, toggle direction (R6, R73, D7). -/
abbrev codeBtn2 : Byte := 0x10#8

/-- `CODE_BTN3`: Button3, reserved (R6, R73, D7). -/
abbrev codeBtn3 : Byte := 0x20#8

/-- The four codes in the order the source lists them (R73). -/
def buttonCodes : List Byte := [codeBtn0, codeBtn1, codeBtn2, codeBtn3]

/-- `BURST_LEN`: steps in one inner run (R6; log 12). -/
abbrev burstLen : Nat := 4100

/-- `HOLD_US`: the lower bound of one hold interval, in microseconds (R6, R13). -/
abbrev holdUs : Nat := 1200

/-- The default `STEP_PATTERN` of R54. PRESUMED (log 3): the spec takes it from general knowledge (G1). -/
def defaultPattern : Vector Pattern 8 := #v[0x1#4, 0x3#4, 0x2#4, 0x6#4, 0x4#4, 0xC#4, 0x8#4, 0x9#4]

/-- Entry `i` of a pattern table; every 3-bit index has one (R50, R51). -/
def patternAt (t : Vector Pattern 8) (i : StepIndex) : Pattern := t[i.toNat]'i.isLt

/-- `popcount`: the number of 1 bits (R10). -/
def popcount (v : Pattern) : Nat :=
  (v.getLsbD 0).toNat + (v.getLsbD 1).toNat + (v.getLsbD 2).toNat + (v.getLsbD 3).toNat

/-- The half-step constraint (R53): cyclically consecutive entries differ in exactly one bit. -/
abbrev HalfStep (t : Vector Pattern 8) : Prop :=
  ∀ i : StepIndex, popcount (patternAt t i ^^^ patternAt t (i + 1#3)) = 1

/-- `HC_W` = max(1, ceil(log2(`HOLD_TICKS`))), the width of the hold counter (R6). -/
def hcW (holdTicks : Nat) : Nat := if holdTicks ≤ 2 then 1 else Nat.log2 (holdTicks - 1) + 1

end Sys2Proof.Machine

namespace Sys2Proof

/-- A legal configuration (R7). -/
abbrev Config.Legal (c : Config) : Prop := 1 ≤ c.holdTicks ∧ Machine.HalfStep c.stepPattern

/-- The clock runs, and `HOLD_TICKS / CLK_HZ` is at least `HOLD_US` microseconds (R6, R184).
DESIGN CHOICE (log 8): the frequency is a whole number of hertz. -/
abbrev Config.ClockOk (c : Config) : Prop := 1 ≤ c.clkHz ∧ Machine.holdUs * c.clkHz ≤ c.holdTicks * 1000000

/-- The configuration of `State.reset`. DESIGN CHOICE (log 2): 1200 cycles of a 1 MHz clock, the bound of R6 with
equality; PRESUMED (log 3): the table of R54; DESIGN CHOICE (log 14): each coil line to the driver input of its
own number. -/
def Config.default : Config :=
  { stepPattern := Machine.defaultPattern, holdTicks := 1200, clkHz := 1000000, coilMap := #v[0, 1, 2, 3] }

end Sys2Proof
end

