-- ==== Sys2Proof/Syntax.lean ====
section
/-!
DEFINITION. The operations of the block, one constructor per row of spec/opcode_table.json.
DESIGN CHOICE (log 11): a bit of the encoded word that a row does not examine is carried as an operand, read by no
meaning, so that decoding loses no bit of a word.
-/

namespace Sys2Proof

inductive Instr where
  /-- EVT_NONE (R131): no event presented; `m` is the mask, not looked at. -/
  | evtNone (m : Byte)
  /-- EVT_ENABLE (R132). -/
  | evtEnable
  /-- EVT_DISABLE (R133). -/
  | evtDisable
  /-- EVT_TOGGLE_DIR (R134). -/
  | evtToggleDir
  /-- EVT_RESERVED (R135). -/
  | evtReserved
  /-- EVT_IGNORE (R136): `m` is a mask that is none of the four codes. -/
  | evtIgnore (m : Byte)
  /-- SEQ_HOLD (R103); the selector's other bits `phase`, `en`, `dir`, `last`. -/
  | seqHold (p e d l : Bool)
  /-- SEQ_IDLE_REPOLL (R104); the selector's bits `dir`, `last`. -/
  | seqIdleRepoll (d l : Bool)
  /-- SEQ_START (R105); the selector's bits `dir`, `last`. -/
  | seqStart (d l : Bool)
  /-- SEQ_STEP_CW (R106); the selector's bit `last`. -/
  | seqStepCw (l : Bool)
  /-- SEQ_STEP_CCW (R107); the selector's bit `last`. -/
  | seqStepCcw (l : Bool)
  /-- SEQ_STOP_CW (R108); the selector's bit `last`. -/
  | seqStopCw (l : Bool)
  /-- SEQ_STOP_CCW (R109); the selector's bit `last`. -/
  | seqStopCcw (l : Bool)
deriving DecidableEq, Repr

end Sys2Proof
end

