-- ==== Sys2Proof/WellFormed.lean ====
section
/-!
DEFINITION. Which terms of `Instr` stand for an encoded word of the block.
-/

namespace Sys2Proof

/-- A term is well formed when some word decodes to it. The one check: the mask of EVT_IGNORE is none of the four
codes (30_encoding.md R73, 41_dispatch.md R136). -/
def Instr.wf : Instr → Bool
  | .evtNone _ => true
  | .evtEnable => true
  | .evtDisable => true
  | .evtToggleDir => true
  | .evtReserved => true
  | .evtIgnore m => !Machine.buttonCodes.contains m
  | .seqHold _ _ _ _ => true
  | .seqIdleRepoll _ _ => true
  | .seqStart _ _ => true
  | .seqStepCw _ => true
  | .seqStepCcw _ => true
  | .seqStopCw _ => true
  | .seqStopCcw _ => true

end Sys2Proof
end

