-- ==== Sys2Proof/Decode.lean ====
section
/-!
DEFINITION. The two encoded words (30_encoding.md) and the operation each selects; after the decoder, the encoder and
the rows of spec/opcode_table.json, written from the same tables. Every word of either format selects exactly one
operation (R73, R79, R76), so only a number too wide for its format is rejected, by name.
-/

namespace Sys2Proof

/-- `{v, m}`, the event word with `V` at bit 8 and `M` at bits 7..0 (R71). -/
def eventWord (v : Bool) (m : Byte) : EventWord := BitVec.ofBool v ++ m

/-- The field `V` of an event word (R71). -/
def eventValid (w : EventWord) : Bool := w.getLsbD 8

/-- The field `M` of an event word (R71). -/
def eventMask (w : EventWord) : Byte := w.extractLsb' 0 8

/-- The event decode table (R73): all 8 mask bits are compared for equality with each code (R72), and EVT_IGNORE is the
default row (R70). -/
def decodeEvent (w : EventWord) : Instr :=
  if eventValid w = false then .evtNone (eventMask w)
  else if eventMask w = Machine.codeBtn0 then .evtEnable
  else if eventMask w = Machine.codeBtn1 then .evtDisable
  else if eventMask w = Machine.codeBtn2 then .evtToggleDir
  else if eventMask w = Machine.codeBtn3 then .evtReserved
  else .evtIgnore (eventMask w)

/-- `{p, x, e, d, l}`, the selector with `P` at bit 4 and `L` at bit 0 (R77). -/
def selectorWord (p x e d l : Bool) : Selector :=
  BitVec.ofBool p ++ (BitVec.ofBool x ++ (BitVec.ofBool e ++ (BitVec.ofBool d ++ BitVec.ofBool l)))

/-- The sequencer decode table on the selector's fields (R79). -/
def decodeFields (p x e d l : Bool) : Instr :=
  match x, p, e, d with
  | false, p, e, d => .seqHold p e d l
  | true, false, false, d => .seqIdleRepoll d l
  | true, false, true, d => .seqStart d l
  | true, true, true, false => .seqStepCw l
  | true, true, true, true => .seqStepCcw l
  | true, true, false, false => .seqStopCw l
  | true, true, false, true => .seqStopCcw l

/-- The sequencer decode table (R79): fields `P`, `X`, `E`, `D`, `L` at bits 4, 3, 2, 1, 0 (R77). -/
def decodeSelector (w : Selector) : Instr :=
  decodeFields (w.getLsbD 4) (w.getLsbD 3) (w.getLsbD 2) (w.getLsbD 1) (w.getLsbD 0)

/-- An encoded word: of the format `event` (9 bits) or of the format `seqsel` (5 bits) (R70, R81). -/
inductive Encoded where
  | event (w : EventWord)
  | seqsel (w : Selector)
deriving DecidableEq, Repr

/-- The operation an encoded word selects (R73, R79). -/
def decodeWord : Encoded → Instr
  | .event w => decodeEvent w
  | .seqsel w => decodeSelector w

/-- Why a number is no encoded word. -/
inductive DecodeError where
  /-- The number does not fit the 9 bits of an event word (R71, R81). -/
  | eventWordTooWide
  /-- The number does not fit the 5 bits of a selector (R77, R81). -/
  | selectorTooWide
deriving DecidableEq, Repr

/-- The operation of a word given as a number in `nbits` bits (whole bytes): the formats differ in length alone, 5 bits
for a selector (one byte) and 9 bits for an event word (two bytes). DESIGN CHOICE (log 16). -/
def decode (nbits w : Nat) : Except DecodeError Instr :=
  if nbits ≤ 8 then
    if w < 32 then .ok (decodeSelector (BitVec.ofNat 5 w)) else .error .selectorTooWide
  else
    if w < 512 then .ok (decodeEvent (BitVec.ofNat 9 w)) else .error .eventWordTooWide

/-- The instruction of a row of spec/opcode_table.json, as the host numbers its bits. -/
def decodeTableWord (nbits w : Nat) : Option Instr :=
  match decode nbits w with
  | .ok i => some i
  | .error _ => none

/-- The word of an operation, from the encodings of 40_sequencer.md and 41_dispatch.md. -/
def encode : Instr → Encoded
  | .evtNone m => .event (eventWord false m)
  | .evtEnable => .event (eventWord true Machine.codeBtn0)
  | .evtDisable => .event (eventWord true Machine.codeBtn1)
  | .evtToggleDir => .event (eventWord true Machine.codeBtn2)
  | .evtReserved => .event (eventWord true Machine.codeBtn3)
  | .evtIgnore m => .event (eventWord true m)
  | .seqHold p e d l => .seqsel (selectorWord p false e d l)
  | .seqIdleRepoll d l => .seqsel (selectorWord false true false d l)
  | .seqStart d l => .seqsel (selectorWord false true true d l)
  | .seqStepCw l => .seqsel (selectorWord true true true false l)
  | .seqStepCcw l => .seqsel (selectorWord true true true true l)
  | .seqStopCw l => .seqsel (selectorWord true true false false l)
  | .seqStopCcw l => .seqsel (selectorWord true true false true l)

/-- The word formats of spec/opcode_table.json (R70). -/
inductive Format where
  | event
  | seqsel
deriving DecidableEq, Repr

/-- A row of spec/opcode_table.json: a word matches when `word AND mask` is `pattern` (R70). -/
structure Row where
  mnemonic : String
  format : Format
  pattern : Nat
  mask : Nat
deriving DecidableEq, Repr

/-- The table's row of an operation, `match` and `mask` copied from spec/opcode_table.json. -/
def tableRow : Instr → Row
  | .evtNone _ => ⟨"EVT_NONE", .event, 0x000, 0x100⟩
  | .evtEnable => ⟨"EVT_ENABLE", .event, 0x104, 0x1FF⟩
  | .evtDisable => ⟨"EVT_DISABLE", .event, 0x108, 0x1FF⟩
  | .evtToggleDir => ⟨"EVT_TOGGLE_DIR", .event, 0x110, 0x1FF⟩
  | .evtReserved => ⟨"EVT_RESERVED", .event, 0x120, 0x1FF⟩
  | .evtIgnore _ => ⟨"EVT_IGNORE", .event, 0x100, 0x100⟩
  | .seqHold _ _ _ _ => ⟨"SEQ_HOLD", .seqsel, 0b00000, 0b01000⟩
  | .seqIdleRepoll _ _ => ⟨"SEQ_IDLE_REPOLL", .seqsel, 0b01000, 0b11100⟩
  | .seqStart _ _ => ⟨"SEQ_START", .seqsel, 0b01100, 0b11100⟩
  | .seqStepCw _ => ⟨"SEQ_STEP_CW", .seqsel, 0b11100, 0b11110⟩
  | .seqStepCcw _ => ⟨"SEQ_STEP_CCW", .seqsel, 0b11110, 0b11110⟩
  | .seqStopCw _ => ⟨"SEQ_STOP_CW", .seqsel, 0b11000, 0b11110⟩
  | .seqStopCcw _ => ⟨"SEQ_STOP_CCW", .seqsel, 0b11010, 0b11110⟩

/-- A word matches a row of its own format (R70). -/
def rowMatches (r : Row) : Encoded → Bool
  | .event w => r.format == .event && w.toNat &&& r.mask == r.pattern
  | .seqsel w => r.format == .seqsel && w.toNat &&& r.mask == r.pattern

/-- The operation writes the registers of the event process, not of the sequencer (R10). -/
def Instr.isEvent (i : Instr) : Bool := (tableRow i).format == .event

end Sys2Proof
end

