-- ==== Sys2Proof/Machine/State.lean ====
section
/-!
DEFINITION. The state of the block: the seven registers of 10_state.md R20, the configuration (R30), and the model's
record of what the environment drives. Plain data.
-/

namespace Sys2Proof.Machine

/-- The block has no fault, exception or trap of any kind (60_exceptions.md R150, R152), so this type has no
constructor: nothing raises a fault, and by its type no step can answer one. -/
inductive Fault where
deriving DecidableEq, Repr

/-- Why the model gives an edge no meaning. -/
inductive Refusal where
  /-- Raised by exec for an operation that has no meaning yet (none now). Safe. -/
  | notModelled (mnemonic : String)
  /-- Raised by an edge when `HOLD_TICKS` is 0 or the table breaks the half-step constraint (R7, D22, I9). Safe. -/
  | illegalConfiguration
  /-- Raised by an edge when the clock does not run or is too fast for the bound of R6 (R184, I15; log 8). Safe. -/
  | clockTooFast
  /-- Raised by an edge with `rst` = 0 from a state that is not legal (R31, I10; log 7). Safe. -/
  | illegalState
deriving DecidableEq, Repr

/-- The state of the block between two edges. -/
structure State where
  /-- The configuration; no operation writes it (R30; log 1). -/
  cfg : Config
  /-- `en`: enabled (R21). -/
  en : Bool
  /-- `dir`: the direction (R22). -/
  dir : Dir
  /-- `idx`: the step index (R23). -/
  idx : StepIndex
  /-- `phase`: the hold in progress (R25). -/
  phase : Phase
  /-- `hold_cnt`: cycles already spent in the hold, a counter of `HC_W` bits (R26; log 9). -/
  holdCnt : Nat
  /-- `burst`: steps completed in the inner run (R27). -/
  burst : BurstCount
  /-- `coil`: the coil output register (R28). -/
  coil : Pattern
  /-- The model's own: the input words of the coming edges, the next edge's first (R82, R83; log 4). -/
  stimulus : List InputWord
  /-- The model's own: how many edges took their input from the free environment (log 4). -/
  freeCount : Nat
deriving DecidableEq, Repr

/-- The state after a reset edge of a block with configuration `c`: the values of 70_reset_and_hazards.md R180, and
nothing queued at the inputs. -/
def State.resetWith (c : Config) : State :=
  { cfg := c, en := false, dir := .cw, idx := 0#3, phase := .idleHold, holdCnt := 0, burst := 0#13, coil := 0#4,
    stimulus := [], freeCount := 0 }

/-- The machine right after reset (R180), in the default configuration (log 2, log 3). -/
def State.reset : State := State.resetWith Config.default

end Sys2Proof.Machine
end

