-- ==== Sys2Proof/Machine/Flags.lean ====
section
/-!
DEFINITION. The flags `en` and `dir` (10_state.md R37), written by the event operations only, and the one-bit values
of the named registers.
-/

namespace Sys2Proof.Machine

/-- The bit of a direction: Clockwise 0, CounterClockwise 1 (R22, D9). -/
def dirBit : Dir → Bool
  | .cw => false
  | .ccw => true

/-- The direction of a bit (R22, D9). -/
def dirOfBit : Bool → Dir
  | false => .cw
  | true => .ccw

/-- The bit of a phase: `IDLE_HOLD` 0, `STEP_HOLD` 1 (R25). -/
def phaseBit : Phase → Bool
  | .idleHold => false
  | .stepHold => true

/-- The phase of a bit (R25). -/
def phaseOfBit : Bool → Phase
  | false => .idleHold
  | true => .stepHold

/-- `(dir + 1) mod 2` (R134). -/
def toggled (d : Dir) : Dir := dirOfBit (((dirBit d).toNat + 1) % 2 == 1)

/-- `en <- v` (R132, R133). -/
def State.setEn (s : State) (v : Bool) : State := { s with en := v }

/-- `dir <- d` (R134). -/
def State.setDir (s : State) (d : Dir) : State := { s with dir := d }

end Sys2Proof.Machine
end

