-- ==== Sys2Proof/Machine/Ops.lean ====
section
/-!
DEFINITION. The named operations over the registers, the table, the inputs and the outputs.
No operation takes an exception or returns from one: the block has neither (60_exceptions.md R150, R156, R157).
-/

namespace Sys2Proof.Machine

/-! ### The registers of the sequencer process (R10) -/

/-- `idx <- i` (R23). -/
def State.setIdx (s : State) (i : StepIndex) : State := { s with idx := i }

/-- `phase <- p` (R25). -/
def State.setPhase (s : State) (p : Phase) : State := { s with phase := p }

/-- `hold_cnt <- n` (R26): the register keeps the low `HC_W` bits (log 9). -/
def State.setHoldCnt (s : State) (n : Nat) : State := { s with holdCnt := n % 2 ^ hcW s.cfg.holdTicks }

/-- `burst <- b` (R27). -/
def State.setBurst (s : State) (b : BurstCount) : State := { s with burst := b }

/-- `PortWrite(v)`: `coil <- v`, all 4 bits at once (R10, R59). -/
def State.setCoil (s : State) (v : Pattern) : State := { s with coil := v }

/-- `MemRead(i, 4)`: entry i of the table, without side effect (R51). -/
def State.memRead (s : State) (i : StepIndex) : Pattern := patternAt s.cfg.stepPattern i

/-! ### Legal states (R31) -/

/-- A legal state (R31). -/
abbrev State.Legal (s : State) : Prop :=
  s.holdCnt ≤ s.cfg.holdTicks - 1 ∧ s.burst.toNat ≤ burstLen - 1 ∧
  (s.phase = .idleHold → s.burst = 0#13 ∧ s.coil = 0#4) ∧
  (s.phase = .stepHold → s.coil = s.memRead s.idx)

/-! ### Reset (R180) -/

/-- What an edge with `rst` = 1 does: every register takes its reset value (R180). The configuration and the
environment's queue are no registers and stay. -/
def State.applyReset (s : State) : State :=
  { s with en := false, dir := .cw, idx := 0#3, phase := .idleHold, holdCnt := 0, burst := 0#13, coil := 0#4 }

/-! ### The inputs sampled at an edge (R32, R82) -/

/-- `{rst, evt_valid, evt_mask}` with `rst` at bit 9 (R82). -/
def inputWord (rst : Bool) (ev : EventWord) : InputWord := BitVec.ofBool rst ++ ev

/-- The input `rst` of a cycle's word (R82). -/
def inputRst (w : InputWord) : Bool := w.getLsbD 9

/-- The event word of a cycle's word (R71, R82). -/
def inputEvent (w : InputWord) : EventWord := w.extractLsb' 0 9

/-- The inputs at the next edge: the first queued word, else whatever the environment drives (log 4). -/
def State.nextInput (s : State) : InputWord :=
  match s.stimulus with
  | [] => Config.freeInput s.freeCount
  | w :: _ => w

/-- The edge has passed: its input word is gone, since no event is queued or latched (R60, R130). -/
def State.consumeInput (s : State) : State :=
  match s.stimulus with
  | [] => { s with freeCount := s.freeCount + 1 }
  | _ :: ws => { s with stimulus := ws }

/-! ### The outputs in a cycle (R32 to R35) -/

/-- The values at the output ports of R32. -/
structure Outputs where
  coil : BitVec 4
  aux : BitVec 2
  stEn : BitVec 1
  stDir : BitVec 1
  stIdx : BitVec 3
  stPhase : BitVec 1
deriving DecidableEq, Repr

/-- The outputs: the registers with no logic between (R33, R35), and the two auxiliary lines, always high (R34). -/
def State.outputs (s : State) : Outputs :=
  { coil := s.coil, aux := 0b11#2, stEn := BitVec.ofBool s.en, stDir := BitVec.ofBool (dirBit s.dir), stIdx := s.idx,
    stPhase := BitVec.ofBool (phaseBit s.phase) }

/-- The integrator's merge of the coil lines into a motor port of `w` bits (R55): bits 3..0 take `coil`, the bits above
keep their value. It is outside the block and acts on no state of it. -/
def mergePort (w : Nat) (port : BitVec w) (coil : Pattern) : BitVec w :=
  (port >>> 4) <<< 4 ||| coil.setWidth w

/-- The level at driver input `j`: high when some coil line that `COIL_MAP` takes to it is high (R56; log 14). It is
outside the block and acts on no state of it. -/
def State.driverInput (s : State) (j : Fin 4) : Bool :=
  (List.finRange 4).any fun i => decide (s.cfg.coilMap[i] = j) && s.coil.getLsbD i.val

end Sys2Proof.Machine
end

