-- ==== Sys2Proof/Machine/Operands.lean ====
section
/-!
DEFINITION. What the operations compute from the pre-edge registers: the selector and its derived bits, the advance
function, the enable multiplexer and the burst step.
-/

namespace Sys2Proof.Machine

/-- `expire = (hold_cnt == HOLD_TICKS - 1)` (R78). -/
def State.expire (s : State) : Bool := s.holdCnt == s.cfg.holdTicks - 1

/-- `last = (burst == BURST_LEN - 1)` (R78). -/
def State.last (s : State) : Bool := s.burst.toNat == burstLen - 1

/-- The sequencer selector of the pre-edge state, `{phase, expire, en, dir, last}` (R77). -/
def State.selector (s : State) : Selector := selectorWord (phaseBit s.phase) s.expire s.en (dirBit s.dir) s.last

/-- The advance function (R101): `(i + 1) mod 8` clockwise, `(i + 8 - 1) mod 8` counter-clockwise. -/
def adv (i : StepIndex) : Dir → StepIndex
  | .cw => BitVec.ofNat 3 ((i.toNat + 1) % 8)
  | .ccw => BitVec.ofNat 3 ((i.toNat + 8 - 1) % 8)

/-- The enable multiplexer (R102): the value an expiry edge loads into `coil`, at the index j of the next hold. -/
def State.coilMux (s : State) (en : Bool) (j : StepIndex) : Pattern := if en then s.memRead j else 0#4

/-- The burst step of R106: 0 after the last step of an inner run (R110), else one more. -/
def State.nextBurst (s : State) : BurstCount := if s.last then 0#13 else s.burst + 1#13

end Sys2Proof.Machine
end

