-- ==== Sys2Proof/Machine/Event.lean ====
section
/-!
DEFINITION. The event operations (41_dispatch.md). Each writes at most one of `en` and `dir`, and no other register
(R130). The input word itself is taken off by the edge (Sys2Proof/Machine/Edge.lean).
-/

namespace Sys2Proof.Machine

/-- The outcome of an operation of the block: a next state, always (R150). -/
abbrev Answer := Host.Outcome State Fault Refusal

/-- EVT_NONE (R131): nothing is written; the mask is not looked at. -/
def execEvtNone (_m : Byte) (s : State) : Answer := .next s

/-- EVT_ENABLE (R132): `en <- 1`. -/
def execEvtEnable (s : State) : Answer := .next (s.setEn true)

/-- EVT_DISABLE (R133): `en <- 0`. -/
def execEvtDisable (s : State) : Answer := .next (s.setEn false)

/-- EVT_TOGGLE_DIR (R134): `dir <- (dir + 1) mod 2`. -/
def execEvtToggleDir (s : State) : Answer := .next (s.setDir (toggled s.dir))

/-- EVT_RESERVED (R135): strictly a no-op. -/
def execEvtReserved (s : State) : Answer := .next s

/-- EVT_IGNORE (R136): a no-op for every mask that is no code. -/
def execEvtIgnore (_m : Byte) (s : State) : Answer := .next s

end Sys2Proof.Machine
end

