-- ==== Sys2Proof/Machine/Sequencer.lean ====
section
/-!
DEFINITION. The sequencer operations (40_sequencer.md). They write only `phase`, `hold_cnt`, `burst`, `idx` and `coil`
(R100). An operation is given by its pseudocode in every state; which one executes at an edge is the selector's
choice (R79; log 10).
-/

namespace Sys2Proof.Machine

/-- A hold of kind `p` begins: `hold_cnt <- 0`, `phase <- p`, `burst <- b`, `coil <- v` (R104 to R109). -/
def State.beginHold (s : State) (p : Phase) (b : BurstCount) (v : Pattern) : State :=
  (((s.setHoldCnt 0).setPhase p).setBurst b).setCoil v

/-- A step hold ends while enabled (R106, R107): the index advances first, and the table is read at the new index. -/
def State.stepRun (s : State) (d : Dir) : State :=
  (s.setIdx (adv s.idx d)).beginHold .stepHold s.nextBurst (s.coilMux true (adv s.idx d))

/-- A step hold ends after `en` became 0 (R108, R109): the index still advances, and the output is zero. -/
def State.stopRun (s : State) (d : Dir) : State :=
  (s.setIdx (adv s.idx d)).beginHold .idleHold 0#13 (s.coilMux false (adv s.idx d))

/-- SEQ_HOLD (R103): `hold_cnt <- hold_cnt + 1`. -/
def execSeqHold (_p _e _d _l : Bool) (s : State) : Answer := .next (s.setHoldCnt (s.holdCnt + 1))

/-- SEQ_IDLE_REPOLL (R104): another idle dwell begins, with zero asserted again. -/
def execSeqIdleRepoll (_d _l : Bool) (s : State) : Answer :=
  .next (s.beginHold .idleHold 0#13 (s.coilMux false s.idx))

/-- SEQ_START (R105): an inner run begins with the pattern at the current index, which does not advance. -/
def execSeqStart (_d _l : Bool) (s : State) : Answer :=
  .next (s.beginHold .stepHold 0#13 (s.coilMux true s.idx))

/-- SEQ_STEP_CW (R106). -/
def execSeqStepCw (_l : Bool) (s : State) : Answer := .next (s.stepRun .cw)

/-- SEQ_STEP_CCW (R107). -/
def execSeqStepCcw (_l : Bool) (s : State) : Answer := .next (s.stepRun .ccw)

/-- SEQ_STOP_CW (R108). -/
def execSeqStopCw (_l : Bool) (s : State) : Answer := .next (s.stopRun .cw)

/-- SEQ_STOP_CCW (R109). -/
def execSeqStopCcw (_l : Bool) (s : State) : Answer := .next (s.stopRun .ccw)

end Sys2Proof.Machine
end

