-- ==== Sys2Proof/Machine/Dispatch.lean ====
section
/-! DEFINITION. Each operation's meaning, one arm per constructor of Instr. -/

namespace Sys2Proof.Machine

def exec (i : Instr) (s : State) : Host.Outcome State Fault Refusal :=
  match i with
  -- event operations (41_dispatch.md)
  | .evtNone m => Sys2Proof.Machine.execEvtNone m s
  | .evtEnable => Sys2Proof.Machine.execEvtEnable s
  | .evtDisable => Sys2Proof.Machine.execEvtDisable s
  | .evtToggleDir => Sys2Proof.Machine.execEvtToggleDir s
  | .evtReserved => Sys2Proof.Machine.execEvtReserved s
  | .evtIgnore m => Sys2Proof.Machine.execEvtIgnore m s
  -- sequencer operations (40_sequencer.md)
  | .seqHold p e d l => Sys2Proof.Machine.execSeqHold p e d l s
  | .seqIdleRepoll d l => Sys2Proof.Machine.execSeqIdleRepoll d l s
  | .seqStart d l => Sys2Proof.Machine.execSeqStart d l s
  | .seqStepCw l => Sys2Proof.Machine.execSeqStepCw l s
  | .seqStepCcw l => Sys2Proof.Machine.execSeqStepCcw l s
  | .seqStopCw l => Sys2Proof.Machine.execSeqStopCw l s
  | .seqStopCcw l => Sys2Proof.Machine.execSeqStopCcw l s

end Sys2Proof.Machine
end

