-- ==== Sys2Proof/Machine/Edge.lean ====
section
/-!
DEFINITION. One rising edge of `clk` (00_scope.md R9, 30_encoding.md R80, 60_exceptions.md R155): reset, or one sequencer
operation and one event operation.
-/

namespace Sys2Proof.Machine

/-- One operation after another; a stop of the first is the answer. -/
def andThen (a : Answer) (f : State → Answer) : Answer :=
  match a with
  | .next s => f s
  | .fault r => .fault r
  | .refused r => .refused r

/-- The sequencer operation the pre-edge state selects (R77, R79). -/
def State.seqOp (s : State) : Instr := decodeSelector s.selector

/-- The event operation the inputs of the edge select (R71, R73). -/
def State.evtOp (s : State) : Instr := decodeEvent (inputEvent s.nextInput)

/-- The input `rst` at the edge (R32). -/
def State.rstIn (s : State) : Bool := inputRst s.nextInput

/-- One sequencer operation and one event operation of the same edge (R80). Both are selected from the pre-edge state.
DEDUCED (log 6): the sequencer operation is applied first, then the event operation; they write disjoint registers
(R10) and neither reads a register the other writes, so the order does not matter. -/
def State.operate (s : State) (q e : Instr) : Answer := andThen (exec q s) (exec e)

/-- One edge, in the priority of R155. An illegal configuration is refused (R7), a clock outside the bound of R6 too
(log 8); reset is defined in every register state (R180); an edge with `rst` = 0 is given a meaning in legal states
only (R31; log 7). -/
def clockEdge (s : State) : Answer :=
  if ¬ s.cfg.Legal then .refused .illegalConfiguration
  else if ¬ s.cfg.ClockOk then .refused .clockTooFast
  else if s.rstIn then .next s.consumeInput.applyReset
  else if ¬ s.Legal then .refused .illegalState
  else s.consumeInput.operate s.seqOp s.evtOp

/-- The event word `ev` presented at the next edge, with `rst` = 0, in place of what stood there. -/
def State.placeEvent (s : State) (ev : EventWord) : State :=
  { s with stimulus := inputWord false ev :: s.stimulus.drop 1 }

/-- The registers set so that the next edge computes the selector `sel` (R77), with no event at that edge. The fields
`phase`, `en` and `dir` are taken from `sel`; `hold_cnt` and `burst` are changed only where `X` or `L` asks for it;
`coil` is what R31 says of the phase (log 5). -/
def State.placeSelector (s : State) (sel : Selector) : State :=
  let p := phaseOfBit (sel.getLsbD 4)
  { s with
    phase := p
    holdCnt := if sel.getLsbD 3 then s.cfg.holdTicks - 1 else if s.expire then 0 else s.holdCnt
    en := sel.getLsbD 2
    dir := dirOfBit (sel.getLsbD 1)
    burst := if sel.getLsbD 0 then BitVec.ofNat 13 (burstLen - 1) else if s.last || p == .idleHold then 0#13 else s.burst
    coil := match p with
      | .idleHold => 0#4
      | .stepHold => s.memRead s.idx
    stimulus := inputWord false (eventWord false 0#8) :: s.stimulus.drop 1 }

/-- The word `w` of `nbits` bits placed where the next edge takes its operation from: a selector in the registers it is
computed from, an event word at the inputs (log 5, log 16). -/
def State.placeWord (s : State) (nbits w : Nat) : State :=
  if nbits ≤ 8 then s.placeSelector (BitVec.ofNat 5 w) else s.placeEvent (BitVec.ofNat 9 w)

end Sys2Proof.Machine
end

