-- ==== Sys2Proof/Machine/Stimulus.lean ====
section
/-!
DEFINITION. The stimulus notation (30_encoding.md R82): statements, pseudo-statements, the input words they stand for, and
the reading of a program's text. The points R82 leaves to a reader of the text are log 17.
-/

namespace Sys2Proof.Machine

/-- A statement of a stimulus program (R82). -/
inductive Stmt where
  /-- `EVT m`: one cycle with an event. -/
  | evt (m : Byte)
  /-- `NOP n`: n cycles without one; `NOP` alone is `NOP 1`. -/
  | nop (n : Nat)
  /-- `RESET`: one cycle with `rst` = 1. -/
  | reset
deriving DecidableEq, Repr

/-- `NOP n` asks for n >= 1 (R82). -/
def stmtWf : Stmt → Bool
  | .evt _ => true
  | .nop n => decide (1 ≤ n)
  | .reset => true

/-- The input words of a statement, one per cycle (R82). -/
def stmtWords : Stmt → List InputWord
  | .evt m => [inputWord false (eventWord true m)]
  | .nop n => List.replicate n (inputWord false (eventWord false 0#8))
  | .reset => [inputWord true (eventWord false 0#8)]

/-- A program's encoding: its input words in order (R82). -/
def programWords (p : List Stmt) : List InputWord := p.flatMap stmtWords

/-- The pseudo-statements (R82). -/
def stmtEnable : Stmt := .evt codeBtn0
def stmtDisable : Stmt := .evt codeBtn1
def stmtToggle : Stmt := .evt codeBtn2
def stmtRsvd : Stmt := .evt codeBtn3
def stmtWaithold (holdTicks : Nat) : Stmt := .nop holdTicks

/-! ### Reading the text -/

/-- The lines of a text. -/
def textLines : List Char → List (List Char)
  | [] => [[]]
  | c :: cs =>
    if c = '\n' then [] :: textLines cs
    else match textLines cs with
      | [] => [[c]]
      | l :: ls => (c :: l) :: ls

/-- White space inside a line. -/
def isBlank (c : Char) : Bool := c = ' ' || c = '\t' || c = '\r'

/-- The words of a line; a word ends at white space. -/
def lineWords : List Char → List (List Char)
  | [] => []
  | c :: cs =>
    if isBlank c then lineWords cs
    else match cs with
      | [] => [[c]]
      | d :: _ =>
        if isBlank d then [c] :: lineWords cs
        else match lineWords cs with
          | [] => [[c]]
          | w :: ws => (c :: w) :: ws

/-- The value of a digit in the given base. -/
def digitValue (base : Nat) (c : Char) : Option Nat :=
  let n := c.toNat
  let v := if 48 ≤ n ∧ n ≤ 57 then n - 48 else if 65 ≤ n ∧ n ≤ 70 then n - 55 else if 97 ≤ n ∧ n ≤ 102 then n - 87 else base
  if v < base then some v else none

/-- The number of a run of digits, most significant first, after the digits already read. -/
def readDigits (base : Nat) : Nat → List Char → Option Nat
  | acc, [] => some acc
  | acc, c :: cs =>
    match digitValue base c with
    | none => none
    | some v => readDigits base (acc * base + v) cs

/-- A mask: an 8-bit value written `0x..` (R8, R82). -/
def readMask : List Char → Option Byte
  | '0' :: 'x' :: d :: ds =>
    match readDigits 16 0 (d :: ds) with
    | some n => if n < 256 then some (BitVec.ofNat 8 n) else none
    | none => none
  | _ => none

/-- A cycle count: decimal, at least 1 (R82). -/
def readCount : List Char → Option Nat
  | [] => none
  | d :: ds =>
    match readDigits 10 0 (d :: ds) with
    | some n => if 1 ≤ n then some n else none
    | none => none

/-- The statement of a line's words; `some []` for a line without one (R82). -/
def readStmt (holdTicks : Nat) (ws : List (List Char)) : Option (List Stmt) :=
  match ws with
  | [] => some []
  | [w] =>
    if w = ['N', 'O', 'P'] then some [.nop 1]
    else if w = ['R', 'E', 'S', 'E', 'T'] then some [.reset]
    else if w = ['E', 'N', 'A', 'B', 'L', 'E'] then some [stmtEnable]
    else if w = ['D', 'I', 'S', 'A', 'B', 'L', 'E'] then some [stmtDisable]
    else if w = ['T', 'O', 'G', 'G', 'L', 'E'] then some [stmtToggle]
    else if w = ['R', 'S', 'V', 'D'] then some [stmtRsvd]
    else if w = ['W', 'A', 'I', 'T', 'H', 'O', 'L', 'D'] then some [stmtWaithold holdTicks]
    else none
  | [w, a] =>
    if w = ['E', 'V', 'T'] then (readMask a).map fun m => [.evt m]
    else if w = ['N', 'O', 'P'] then (readCount a).map fun n => [.nop n]
    else none
  | _ => none

/-- A program from its lines; `;` starts a comment that runs to the end of the line (R82). -/
def readLines (holdTicks : Nat) : List (List Char) → Option (List Stmt)
  | [] => some []
  | l :: ls =>
    match readStmt holdTicks (lineWords (l.takeWhile (fun c => c ≠ ';'))), readLines holdTicks ls with
    | some p, some q => some (p ++ q)
    | _, _ => none

/-- A program from its text (R82). -/
def readProgram (holdTicks : Nat) (text : List Char) : Option (List Stmt) := readLines holdTicks (textLines text)

end Sys2Proof.Machine
end

