-- ==== Sys2Proof/Safety.lean ====
section
/-!
DEFINITION. The terms statements about runs are made of: legal machines, runs of edges, and what is observed.
-/

namespace Sys2Proof.Machine

/-- What the spec's rules assume of a block (R184): a legal configuration, a clock within the bound, a legal state. -/
abbrev State.Ok (s : State) : Prop := s.cfg.Legal ∧ s.cfg.ClockOk ∧ s.Legal

/-- `n` edges, one after another. -/
def runEdges : Nat → State → Answer
  | 0, s => .next s
  | n + 1, s => andThen (step s) (runEdges n)

/-- `t` is the state after `n` edges from `s` (R11). -/
abbrev After (n : Nat) (s t : State) : Prop := runEdges n s = .next t

/-- A run of the stimulus program with input words `p` from `s` (R83): cycle k gives the inputs sampled at edge k. -/
def runProgram (p : List InputWord) (s : State) : Answer := runEdges p.length { s with stimulus := p }

/-- The inputs sampled at the edge after `k` further edges: the queued words first, then the free environment (log 4). -/
def State.inputAt (s : State) (k : Nat) : InputWord :=
  match s.stimulus[k]? with
  | some w => w
  | none => Config.freeInput (s.freeCount + (k - s.stimulus.length))

/-- No edge among the next `n` is a reset edge. -/
abbrev NoReset (n : Nat) (s : State) : Prop := ∀ k < n, inputRst (s.inputAt k) = false

/-- The event words of the next `n` edges, in order. -/
def State.events (s : State) (n : Nat) : List EventWord := (List.range n).map fun k => inputEvent (s.inputAt k)

/-- The state with the inputs of `n` edges taken off and nothing else changed. -/
def consumeN : Nat → State → State
  | 0, s => s
  | n + 1, s => consumeN n s.consumeInput

/-- The source's two macro-states (R29). -/
inductive MacroState where
  | stopped
  | running
deriving DecidableEq, Repr

/-- The macro-state is a function of `en` alone (R29). -/
def State.macroState (s : State) : MacroState := if s.en then .running else .stopped

/-- The sequencing position (R38). -/
def State.position (s : State) : Phase × Nat := (s.phase, s.holdCnt)

/-- The states differ at most in `burst` (R116). -/
def EqUpToBurst (s t : State) : Prop := { s with burst := 0#13 } = { t with burst := 0#13 }

/-- The values of `en` and `dir` after the event operation of one event word (R131 to R136). -/
def eventEffect (ev : EventWord) (en : Bool) (dir : Dir) : Bool × Dir :=
  match decodeEvent ev with
  | .evtEnable => (true, dir)
  | .evtDisable => (false, dir)
  | .evtToggleDir => (en, toggled dir)
  | _ => (en, dir)

/-- The values of `en` and `dir` after the event operations of consecutive edges (R191). -/
def eventsEffect : List EventWord → Bool × Dir → Bool × Dir
  | [], f => f
  | ev :: evs, f => eventsEffect evs (eventEffect ev f.1 f.2)

/-- The registers the sequencer leaves at an expiry edge (R104 to R109), from the pre-edge registers; `hold_cnt` is 0. -/
def State.afterExpiry (s : State) : State :=
  match s.phase, s.en with
  | .idleHold, false => { s with holdCnt := 0, phase := .idleHold, burst := 0#13, coil := 0#4 }
  | .idleHold, true => { s with holdCnt := 0, phase := .stepHold, burst := 0#13, coil := s.memRead s.idx }
  | .stepHold, true =>
    { s with
      holdCnt := 0, phase := .stepHold, burst := s.nextBurst, idx := adv s.idx s.dir, coil := s.memRead (adv s.idx s.dir) }
  | .stepHold, false => { s with holdCnt := 0, phase := .idleHold, burst := 0#13, idx := adv s.idx s.dir, coil := 0#4 }

/-- The index after `k` advances in one direction (R112). -/
def advN (d : Dir) : Nat → StepIndex → StepIndex
  | 0, i => i
  | k + 1, i => advN d k (adv i d)

/-- The number of the next expiry edge when the next edge is number 1 (R111, R186). -/
def State.toExpiry (s : State) : Nat := s.cfg.holdTicks - s.holdCnt

end Sys2Proof.Machine
end

