-- ==== Sys2Proof/Certificates/Slice0/Obligations.lean ====
section
/-!
DEFINITION. The statements for the provers, in the order of spec/'s files. Each docstring names the rules it formalises;
a clause that rests on a choice of the model names its log entry. Statements over all states quantify over all
configurations with them, since the configuration is a field of the state (log 1).
-/

open Sys2Proof Sys2Proof.Machine

/-! ### Encodings (30_encoding.md) -/

/-- One word of each row, written from 30_encoding.md R73 and R79, decodes to its operation; numbers too wide for
their format are rejected (log 16). -/
def Obligations.TableWordsDecode : Prop :=
  decodeTableWord 16 0b000000100 = some (.evtNone 0x04#8) ∧
  decodeTableWord 16 0b100000100 = some .evtEnable ∧
  decodeTableWord 16 0b100001000 = some .evtDisable ∧
  decodeTableWord 16 0b100010000 = some .evtToggleDir ∧
  decodeTableWord 16 0b100100000 = some .evtReserved ∧
  decodeTableWord 16 0b110011001 = some (.evtIgnore 0x99#8) ∧
  decodeTableWord 8 0b10111 = some (.seqHold true true true true) ∧
  decodeTableWord 8 0b01010 = some (.seqIdleRepoll true false) ∧
  decodeTableWord 8 0b01110 = some (.seqStart true false) ∧
  decodeTableWord 8 0b11101 = some (.seqStepCw true) ∧
  decodeTableWord 8 0b11110 = some (.seqStepCcw false) ∧
  decodeTableWord 8 0b11001 = some (.seqStopCw true) ∧
  decodeTableWord 8 0b11010 = some (.seqStopCcw false) ∧
  decodeTableWord 16 0b1000000000 = none ∧ decodeTableWord 8 0b100000 = none

/-- Decoding and encoding are inverse to each other, both ways: no bit of a word is lost (log 11), and every word of
either format is some well-formed operation's (R73, R76, R79). -/
def Obligations.DecodeInvertsEncode : Prop :=
  (∀ i : Instr, i.wf = true → decodeWord (encode i) = i) ∧
  (∀ w : Encoded, (decodeWord w).wf = true ∧ encode (decodeWord w) = w)

/-- The rows of spec/opcode_table.json against the decoder (R70): the decoded operation's row matches the word; a
selector matches no other row; an event word matches no other row but the default row EVT_IGNORE, which matches
exactly the words with `V` = 1. -/
def Obligations.RowsSelectOneOperation : Prop :=
  (∀ w : Encoded, rowMatches (tableRow (decodeWord w)) w = true) ∧
  (∀ (w : Selector) (i : Instr), rowMatches (tableRow i) (.seqsel w) = true → tableRow i = tableRow (decodeSelector w)) ∧
  (∀ (w : EventWord) (i : Instr), rowMatches (tableRow i) (.event w) = true →
    tableRow i = tableRow (decodeEvent w) ∨ ∃ m, i = .evtIgnore m) ∧
  (∀ (w : EventWord) (m : Byte), rowMatches (tableRow (.evtIgnore m)) (.event w) = eventValid w)

/-- R73: the event decode table, for every event word. -/
def Obligations.EventDecodeTable : Prop :=
  (∀ w : EventWord, ∃ v m, w = eventWord v m) ∧
  (∀ m, decodeEvent (eventWord false m) = .evtNone m) ∧
  decodeEvent (eventWord true 0x04#8) = .evtEnable ∧
  decodeEvent (eventWord true 0x08#8) = .evtDisable ∧
  decodeEvent (eventWord true 0x10#8) = .evtToggleDir ∧
  decodeEvent (eventWord true 0x20#8) = .evtReserved ∧
  (∀ m, m ≠ 0x04#8 → m ≠ 0x08#8 → m ≠ 0x10#8 → m ≠ 0x20#8 → decodeEvent (eventWord true m) = .evtIgnore m) ∧
  ((List.range 256).filter fun n =>
    decodeEvent (eventWord true (BitVec.ofNat 8 n)) = .evtIgnore (BitVec.ofNat 8 n)).length = 252

/-- R77, R78, R79: the selector's bits, and the operation each selector value selects; `-` of the table is that the
row asks nothing of the bit. -/
def Obligations.SelectorDecodeTable : Prop :=
  (∀ s : State,
    (s.selector.getLsbD 4 = true ↔ s.phase = .stepHold) ∧
    (s.selector.getLsbD 3 = true ↔ s.holdCnt = s.cfg.holdTicks - 1) ∧
    (s.selector.getLsbD 2 = true ↔ s.en = true) ∧
    (s.selector.getLsbD 1 = true ↔ s.dir = .ccw) ∧
    (s.selector.getLsbD 0 = true ↔ s.burst = 4099#13)) ∧
  (∀ s : State, s.Ok → s.cfg.holdTicks = 1 → s.selector.getLsbD 3 = true) ∧
  (∀ s : State, s.Ok → s.phase = .idleHold → s.selector.getLsbD 0 = false) ∧
  (∀ w : Selector, ∃ p x e d l, w = selectorWord p x e d l) ∧
  (∀ p e d l, decodeSelector (selectorWord p false e d l) = .seqHold p e d l) ∧
  (∀ d l, decodeSelector (selectorWord false true false d l) = .seqIdleRepoll d l) ∧
  (∀ d l, decodeSelector (selectorWord false true true d l) = .seqStart d l) ∧
  (∀ l, decodeSelector (selectorWord true true true false l) = .seqStepCw l) ∧
  (∀ l, decodeSelector (selectorWord true true true true l) = .seqStepCcw l) ∧
  (∀ l, decodeSelector (selectorWord true true false false l) = .seqStopCw l) ∧
  (∀ l, decodeSelector (selectorWord true true false true l) = .seqStopCcw l)

/-- The statements and pseudo-statements of the stimulus notation as input words (R82), written in the numbers of R82's
text (`EVT 0x04` is 0x104, `NOP` is 0x000, `RESET` is 0x200), one word a cycle. -/
def Obligations.StimulusWords : Prop :=
  (∀ m, (stmtWords (.evt m)).map BitVec.toNat = [0x100 + m.toNat]) ∧
  (∀ n, (stmtWords (.nop n)).map BitVec.toNat = List.replicate n 0) ∧
  (stmtWords .reset).map BitVec.toNat = [0x200] ∧
  (∀ m, (stmtWords (.evt m)).map (fun w => (inputRst w, inputEvent w)) = [(false, eventWord true m)]) ∧
  (stmtWords .reset).map inputRst = [true] ∧
  stmtEnable = .evt 0x04#8 ∧ stmtDisable = .evt 0x08#8 ∧ stmtToggle = .evt 0x10#8 ∧ stmtRsvd = .evt 0x20#8 ∧
  (∀ h, (programWords [stmtWaithold h]).length = h) ∧
  (∀ p q, programWords (p ++ q) = programWords p ++ programWords q)

/-! ### The edge (00_scope.md R9, 30_encoding.md R80, 60_exceptions.md R155) -/

/-- A step runs the decoded operations: at an edge with `rst` = 0 from a legal machine, the sequencer operation of the
pre-edge selector and then the event operation of the sampled event word, on the state with the edge's input word
taken off; the terms decoded are well formed. -/
def Obligations.StepRunsDecodedOperations : Prop :=
  ∀ s : State, s.Ok → s.rstIn = false →
    s.seqOp = decodeSelector s.selector ∧ s.seqOp.wf = true ∧
    s.evtOp = decodeEvent (inputEvent s.nextInput) ∧ s.evtOp.wf = true ∧
    ∃ u t, exec s.seqOp s.consumeInput = .next u ∧ exec s.evtOp u = .next t ∧ step s = .next t

/-- The two operations of an edge may be applied in either order, with the same answer, in every state: they write
disjoint registers and neither reads what the other writes (R9, R10, R80; log 6). -/
def Obligations.OperationsOfAnEdgeCommute : Prop :=
  ∀ (q e : Instr) (s : State), q.isEvent = false → e.isEvent = true →
    andThen (exec q s) (exec e) = andThen (exec e s) (exec q)

/-- The whole edge in one expression: the hold counter advances, or the registers of R104 to R109 are written, all from
pre-edge values; the event's write stands beside it (R9, R100, R102, R155). -/
def Obligations.EdgeInClosedForm : Prop :=
  ∀ s : State, s.Ok → s.rstIn = false →
    step s = .next
      { (if s.expire then s.consumeInput.afterExpiry else { s.consumeInput with holdCnt := s.holdCnt + 1 }) with
        en := (eventEffect (inputEvent s.nextInput) s.en s.dir).1
        dir := (eventEffect (inputEvent s.nextInput) s.en s.dir).2 }

/-- R180: at an edge with `rst` = 1 every register takes its reset value, whatever it held and whatever event stands at
the inputs. -/
def Obligations.ResetEdgeGivesResetValues : Prop :=
  ∀ s : State, s.cfg.Legal → s.cfg.ClockOk → s.rstIn = true →
    step s = .next
      { cfg := s.cfg, en := false, dir := .cw, idx := 0#3, phase := .idleHold, holdCnt := 0, burst := 0#13, coil := 0#4,
        stimulus := s.consumeInput.stimulus, freeCount := s.consumeInput.freeCount }

/-! ### State, outputs, legality (10_state.md) -/

/-- R33, R34, R35: what the outputs show. -/
def Obligations.OutputsShowRegisters : Prop :=
  ∀ s : State,
    (∀ i < 4, s.outputs.coil.getLsbD i = s.coil.getLsbD i) ∧
    s.outputs.aux = 0b11#2 ∧
    (s.outputs.stEn = 1#1 ↔ s.en = true) ∧ (s.outputs.stDir = 1#1 ↔ s.dir = .ccw) ∧
    s.outputs.stIdx = s.idx ∧ (s.outputs.stPhase = 1#1 ↔ s.phase = .stepHold) ∧
    (∀ t : State, step s = .next t → t.outputs.aux = 0b11#2)

/-- The reset state, for every configuration the rules hold for, and for the model's own (log 2, log 3): legal, with the
values of R180. -/
def Obligations.ResetStateIsLegal : Prop :=
  State.reset.Ok ∧ State.reset = State.resetWith Config.default ∧
  (∀ c : Config, c.Legal → c.ClockOk → (State.resetWith c).Ok ∧ (State.resetWith c).macroState = .stopped ∧
    (State.resetWith c).position = (.idleHold, 0))

/-- Legality is an invariant of the step (R31), together with the configuration, which no step changes (R30, R52). -/
def Obligations.StepKeepsLegality : Prop :=
  ∀ s t : State, s.Ok → step s = .next t → t.Ok ∧ t.cfg = s.cfg

/-- What a legal state is, that reset is one, and that every operation the block executes keeps legality (R31); and, in the
last clause, the model's own reading of R31 and I10 (log 7, DEDUCED): an edge with `rst` = 0 from any other state is
refused. -/
def Obligations.OperationsKeepLegalStates : Prop :=
  (∀ s : State, s.Legal ↔
    s.holdCnt ≤ s.cfg.holdTicks - 1 ∧ s.burst.toNat ≤ 4099 ∧
    (s.phase = .idleHold → s.burst = 0#13 ∧ s.coil = 0#4) ∧
    (s.phase = .stepHold → s.coil = s.cfg.stepPattern[s.idx.toNat]'s.idx.isLt)) ∧
  (∀ c : Config, (State.resetWith c).Legal) ∧
  (∀ s : State, s.cfg.Legal → s.Legal → ∃ t, exec s.seqOp s = .next t ∧ t.Legal) ∧
  (∀ (i : Instr) (s : State), i.isEvent = true → s.Legal → ∃ t, exec i s = .next t ∧ t.Legal) ∧
  (∀ s : State, s.cfg.Legal → s.cfg.ClockOk → s.rstIn = false → ¬ s.Legal → step s = .refused .illegalState)

/-- The block never stops: from a legal machine every number of edges, under every input, ends in a legal machine
(R150, R118: no fault, no halt). -/
def Obligations.LegalMachineNeverStops : Prop :=
  ∀ (n : Nat) (s : State), s.Ok → ∃ t, After n s t ∧ t.Ok ∧ t.cfg = s.cfg

/-- R7: which configurations are legal; any other is refused at every edge, in every state and under every input. -/
def Obligations.IllegalConfigurationRefused : Prop :=
  (∀ c : Config, c.Legal ↔
    1 ≤ c.holdTicks ∧ ∀ i, (h : i < 8) →
      popcount (c.stepPattern[i] ^^^ c.stepPattern[(i + 1) % 8]'(Nat.mod_lt _ (by omega))) = 1) ∧
  (∀ s : State, ¬ s.cfg.Legal → step s = .refused .illegalConfiguration)

/-- The model refuses a clock outside the bound of R6 and R184 (log 8) by a name of its own, and stops nowhere else: a
refused edge has an illegal configuration, a clock outside the bound, or `rst` = 0 in a state that is not legal
(log 7). -/
def Obligations.RefusalsAreTheNamedOnes : Prop :=
  (∀ s : State, s.cfg.Legal → (s.cfg.clkHz = 0 ∨ s.cfg.holdTicks * 1000000 < 1200 * s.cfg.clkHz) →
    step s = .refused .clockTooFast) ∧
  (∀ (s : State) (r : Refusal), step s = .refused r →
    (r = .illegalConfiguration ∧ ¬ s.cfg.Legal) ∨ (r = .clockTooFast ∧ ¬ s.cfg.ClockOk) ∨
    (r = .illegalState ∧ s.rstIn = false ∧ ¬ s.Legal))

/-! ### The table and the coil port (20_memory.md) -/

/-- R51: a table read gives the entry; SEQ_START, SEQ_STEP_CW and SEQ_STEP_CCW read it, and no other
operation depends on the table; R52: no operation and no edge changes it. -/
def Obligations.TableReadByThreeOperations : Prop :=
  (∀ (s : State) (i : StepIndex), s.memRead i = s.cfg.stepPattern[i.toNat]'i.isLt) ∧
  (∀ (s : State) (d l : Bool), ∃ t u v,
    exec (.seqStart d l) s = .next t ∧ t.coil = s.memRead s.idx ∧
    exec (.seqStepCw l) s = .next u ∧ u.coil = s.memRead (adv s.idx .cw) ∧
    exec (.seqStepCcw l) s = .next v ∧ v.coil = s.memRead (adv s.idx .ccw)) ∧
  (∀ (i : Instr) (s t : State) (p : Vector Pattern 8),
    (∀ d l, i ≠ .seqStart d l) → (∀ l, i ≠ .seqStepCw l) → (∀ l, i ≠ .seqStepCcw l) → exec i s = .next t →
    exec i { s with cfg := { s.cfg with stepPattern := p } } = .next { t with cfg := { t.cfg with stepPattern := p } }) ∧
  (∀ (i : Instr) (s t : State), exec i s = .next t → ∀ j, t.memRead j = s.memRead j) ∧
  (∀ s t : State, step s = .next t → t.cfg.stepPattern = s.cfg.stepPattern)

/-- R55: the integrator's merge takes `coil` into bits 3..0 of a port of any width and keeps every other bit. -/
def Obligations.PortMergeKeepsOtherBits : Prop :=
  ∀ (w : Nat) (port : BitVec w) (coil : Pattern) (i : Nat), i < w →
    (mergePort w port coil).getLsbD i = if i < 4 then coil.getLsbD i else port.getLsbD i

/-- No rule of the block depends on `COIL_MAP` (R56, I7; log 14): a step under another map gives the same next state,
under that map. -/
def Obligations.CoilMapHasNoEffect : Prop :=
  ∀ (s : State) (m : Vector (Fin 4) 4),
    step { s with cfg := { s.cfg with coilMap := m } } =
      andThen (step s) (fun t => .next { t with cfg := { t.cfg with coilMap := m } })

/-! ### Event operations (41_dispatch.md) -/

/-- R131, R135, R136: EVT_NONE, EVT_RESERVED and EVT_IGNORE write nothing. -/
def Obligations.NoOpEventsWriteNothing : Prop :=
  (∀ (m : Byte) (s : State), decodeEvent (eventWord false m) = .evtNone m ∧ exec (.evtNone m) s = .next s) ∧
  (∀ s : State, decodeEvent (eventWord true 0x20#8) = .evtReserved ∧ exec .evtReserved s = .next s) ∧
  (∀ (m : Byte) (s : State), m ≠ 0x04#8 → m ≠ 0x08#8 → m ≠ 0x10#8 → m ≠ 0x20#8 →
    decodeEvent (eventWord true m) = .evtIgnore m ∧ exec (.evtIgnore m) s = .next s)

/-- EVT_ENABLE and EVT_DISABLE (R132, R133): they write `en` and nothing else, and are idempotent. -/
def Obligations.EnableAndDisableWriteEn : Prop :=
  decodeEvent (eventWord true 0x04#8) = .evtEnable ∧ decodeEvent (eventWord true 0x08#8) = .evtDisable ∧
  ∀ s : State,
    exec .evtEnable s = .next { s with en := true } ∧ exec .evtDisable s = .next { s with en := false } ∧
    andThen (exec .evtEnable s) (exec .evtEnable) = exec .evtEnable s ∧
    andThen (exec .evtDisable s) (exec .evtDisable) = exec .evtDisable s

/-- EVT_TOGGLE_DIR (R134): it writes `dir` and nothing else, with the other direction; it is an involution and in no
state idempotent (C1). -/
def Obligations.ToggleReversesDir : Prop :=
  decodeEvent (eventWord true 0x10#8) = .evtToggleDir ∧
  (∀ s : State, s.dir = .cw → exec .evtToggleDir s = .next { s with dir := .ccw }) ∧
  (∀ s : State, s.dir = .ccw → exec .evtToggleDir s = .next { s with dir := .cw }) ∧
  (∀ s : State, andThen (exec .evtToggleDir s) (exec .evtToggleDir) = .next s) ∧
  (∀ s : State, andThen (exec .evtToggleDir s) (exec .evtToggleDir) ≠ exec .evtToggleDir s)

/-- The frame of the event operations (R10, R130): at most one of `en` and `dir` changes; every other register, the
configuration, the inputs and every table entry are as before. -/
def Obligations.EventOperationFrame : Prop :=
  ∀ (i : Instr) (s t : State), i.isEvent = true → exec i s = .next t →
    (t = { s with en := t.en } ∨ t = { s with dir := t.dir }) ∧
    (i ≠ .evtEnable → i ≠ .evtDisable → t.en = s.en) ∧ (i ≠ .evtToggleDir → t.dir = s.dir) ∧
    ∀ j, t.memRead j = s.memRead j

/-- R137: the laws of the event process over any sequence of event words: the last write of `en` wins, `dir` is toggled
by the parity of the toggles, and no other word changes anything. -/
def Obligations.EventsCombine : Prop :=
  (∀ (s : State) (m : Byte), exec (.evtNone m) s = .next s ∧ exec .evtReserved s = .next s ∧ exec (.evtIgnore m) s = .next s) ∧
  (∀ s : State, andThen (exec .evtEnable s) (exec .evtDisable) = .next { s with en := false }) ∧
  (∀ s : State, andThen (exec .evtDisable s) (exec .evtEnable) = .next { s with en := true }) ∧
  (∀ (i : Instr) (s t : State), i.isEvent = true → exec i s = .next t →
    ∀ w, decodeEvent w = i → (t.en, t.dir) = eventEffect w s.en s.dir) ∧
  (∀ (ws : List EventWord) (en : Bool) (dir : Dir),
    (eventsEffect ws (en, dir)).2 =
      if (ws.filter fun w => decodeEvent w = .evtToggleDir).length % 2 = 0 then dir else toggled dir) ∧
  (∀ (ws : List EventWord) (en : Bool) (dir : Dir),
    (eventsEffect ws (en, dir)).1 =
      match (ws.filter fun w => decodeEvent w = .evtEnable ∨ decodeEvent w = .evtDisable).getLast? with
      | some w => decide (decodeEvent w = .evtEnable)
      | none => en)

/-- R138: `dir` never decides `phase`; only `en`, read at an expiry, does. -/
def Obligations.DirNeverChangesPhase : Prop :=
  (∀ (s : State) (d : Dir), s.Ok → s.rstIn = false →
    ∃ t u, step s = .next t ∧ step { s with dir := d } = .next u ∧ t.phase = u.phase) ∧
  (∀ s : State, s.Ok → s.rstIn = false → ∃ t, step s = .next t ∧
    t.phase = if s.expire then (if s.en then .stepHold else .idleHold) else s.phase)

/-! ### Sequencer operations (40_sequencer.md) -/

/-- R101: the advance function. -/
def Obligations.AdvanceIsModuloEight : Prop :=
  (∀ i : StepIndex, (adv i .cw).toNat = (i.toNat + 1) % 8 ∧ (adv i .ccw).toNat = (i.toNat + 8 - 1) % 8) ∧
  adv 7#3 .cw = 0#3 ∧ adv 0#3 .ccw = 7#3 ∧
  (∀ (i : StepIndex) (d : Dir), adv (adv i d) (toggled d) = i)

/-- R102: the value of `coil` after every edge: the multiplexer's at an expiry, unwritten at any other edge. -/
def Obligations.EnableMultiplexer : Prop :=
  ∀ s : State, s.Ok → s.rstIn = false → ∃ t, step s = .next t ∧
    t.coil =
      if s.expire then
        (if s.en then
          (match s.phase with
          | .idleHold => s.memRead s.idx
          | .stepHold => s.memRead (adv s.idx s.dir))
        else 0#4)
      else s.coil

/-- R103: SEQ_HOLD counts one cycle, whatever the bits its row does not examine; it is the operation exactly where the
hold has not expired, where the increment stays below `HOLD_TICKS` and fits `HC_W` bits; an event at that edge changes
`en` or `dir` and nothing else; with `HOLD_TICKS` = 1 it is never selected. -/
def Obligations.HoldCountsOneCycle : Prop :=
  (∀ p e d l, decodeSelector (selectorWord p false e d l) = .seqHold p e d l) ∧
  (∀ s : State, s.Ok → s.holdCnt ≠ s.cfg.holdTicks - 1 →
    (∃ p e d l, s.seqOp = .seqHold p e d l) ∧
    s.holdCnt + 1 ≤ s.cfg.holdTicks - 1 ∧ s.holdCnt + 1 < 2 ^ max 1 (Nat.clog 2 s.cfg.holdTicks) ∧
    ∀ p e d l, exec (.seqHold p e d l) s = .next { s with holdCnt := s.holdCnt + 1 }) ∧
  (∀ s : State, s.Ok → s.rstIn = false → s.holdCnt ≠ s.cfg.holdTicks - 1 →
    step s = .next
      { s.consumeInput with
        holdCnt := s.holdCnt + 1
        en := (eventEffect (inputEvent s.nextInput) s.en s.dir).1
        dir := (eventEffect (inputEvent s.nextInput) s.en s.dir).2 }) ∧
  (∀ s : State, s.Ok → s.cfg.holdTicks = 1 → ∀ p e d l, s.seqOp ≠ .seqHold p e d l)

/-- SEQ_IDLE_REPOLL and SEQ_START (R104, R105): what they write, in every state; `idx` is kept, and neither `dir` nor
`last` matters. -/
def Obligations.IdleExpiryOperations : Prop :=
  (∀ d l, decodeSelector (selectorWord false true false d l) = .seqIdleRepoll d l) ∧
  (∀ d l, decodeSelector (selectorWord false true true d l) = .seqStart d l) ∧
  ∀ (s : State) (d l : Bool),
    exec (.seqIdleRepoll d l) s =
      .next { s with holdCnt := 0, phase := .idleHold, burst := 0#13, coil := 0#4 } ∧
    exec (.seqStart d l) s =
      .next { s with holdCnt := 0, phase := .stepHold, burst := 0#13, coil := s.cfg.stepPattern[s.idx.toNat]'s.idx.isLt }

/-- R106, R107: SEQ_STEP_CW and SEQ_STEP_CCW: the index advances first, and `coil` is read at the new index; at the
edge, an event is not seen by the sequencer, whichever it is, and its write stands after the edge. -/
def Obligations.StepExpiryOperations : Prop :=
  (∀ l, decodeSelector (selectorWord true true true false l) = .seqStepCw l) ∧
  (∀ l, decodeSelector (selectorWord true true true true l) = .seqStepCcw l) ∧
  adv 7#3 .cw = 0#3 ∧ adv 0#3 .ccw = 7#3 ∧
  (∀ (s : State) (l : Bool),
    exec (.seqStepCw l) s =
      .next { s with
        idx := adv s.idx .cw, burst := if s.burst = 4099#13 then 0#13 else s.burst + 1#13, holdCnt := 0, phase := .stepHold,
        coil := s.memRead (adv s.idx .cw) } ∧
    exec (.seqStepCcw l) s =
      .next { s with
        idx := adv s.idx .ccw, burst := if s.burst = 4099#13 then 0#13 else s.burst + 1#13, holdCnt := 0, phase := .stepHold,
        coil := s.memRead (adv s.idx .ccw) }) ∧
  (∀ s : State, s.Ok → s.rstIn = false → s.expire = true → s.phase = .stepHold → s.en = true →
    s.coil = s.memRead s.idx ∧
    ∃ t, step s = .next t ∧ t.idx = adv s.idx s.dir ∧ t.coil = s.memRead (adv s.idx s.dir) ∧ t.phase = .stepHold ∧
      t.holdCnt = 0 ∧ (t.en, t.dir) = eventEffect (inputEvent s.nextInput) s.en s.dir)

/-- R108, R109: SEQ_STOP_CW and SEQ_STOP_CCW: the index advances although its pattern is not output, and all of `coil`
becomes 0; `last` does not matter; a later start outputs the entry advanced to; at the edge an event is not seen. -/
def Obligations.StopExpiryOperations : Prop :=
  (∀ l, decodeSelector (selectorWord true true false false l) = .seqStopCw l) ∧
  (∀ l, decodeSelector (selectorWord true true false true l) = .seqStopCcw l) ∧
  (∀ (s : State) (l : Bool),
    exec (.seqStopCw l) s =
      .next { s with idx := adv s.idx .cw, burst := 0#13, holdCnt := 0, phase := .idleHold, coil := 0#4 } ∧
    exec (.seqStopCcw l) s =
      .next { s with idx := adv s.idx .ccw, burst := 0#13, holdCnt := 0, phase := .idleHold, coil := 0#4 }) ∧
  (∀ (s : State) (l d l' : Bool), ∃ t u,
    andThen (exec (.seqStopCw l) s) (exec (.seqStart d l')) = .next t ∧ t.coil = s.memRead (adv s.idx .cw) ∧
    andThen (exec (.seqStopCcw l) s) (exec (.seqStart d l')) = .next u ∧ u.coil = s.memRead (adv s.idx .ccw)) ∧
  (∀ s : State, s.Ok → s.rstIn = false → s.expire = true → s.phase = .stepHold → s.en = false →
    ∃ t, step s = .next t ∧ t.idx = adv s.idx s.dir ∧ t.coil = 0#4 ∧ t.phase = .idleHold ∧ t.burst = 0#13 ∧
      t.holdCnt = 0 ∧ (t.en, t.dir) = eventEffect (inputEvent s.nextInput) s.en s.dir)

/-- The frame of the sequencer operations (R10, R37, R100): every one completes in every state; `en`, `dir`, the
configuration, the inputs and every table entry are as before; SEQ_HOLD writes `hold_cnt` alone; only the operations
that end a step hold write `idx`. -/
def Obligations.SequencerOperationFrame : Prop :=
  ∀ (i : Instr) (s : State), i.isEvent = false → ∃ t, exec i s = .next t ∧
    t.en = s.en ∧ t.dir = s.dir ∧ t.cfg = s.cfg ∧ t.stimulus = s.stimulus ∧ t.freeCount = s.freeCount ∧
    (∀ j, t.memRead j = s.memRead j) ∧
    (∀ p e d l, i = .seqHold p e d l → t = { s with holdCnt := t.holdCnt }) ∧
    ((∃ d l, i = .seqIdleRepoll d l ∨ i = .seqStart d l) → t.idx = s.idx)

/-- R110: the last step of an inner run is like any other step, but that `burst` returns to 0. -/
def Obligations.InnerRunReentryIsInvisible : Prop :=
  ∀ (s : State) (l : Bool) (b : BurstCount), s.burst = 4099#13 →
    (∃ t u, exec (.seqStepCw l) s = .next t ∧ exec (.seqStepCw l) { s with burst := b } = .next u ∧
      t.burst = 0#13 ∧ EqUpToBurst t u) ∧
    (∃ t u, exec (.seqStepCcw l) s = .next t ∧ exec (.seqStepCcw l) { s with burst := b } = .next u ∧
      t.burst = 0#13 ∧ EqUpToBurst t u)

/-- R111: the hold timer. From any point of a hold, every edge before the expiry counts one cycle and leaves `phase`,
`idx`, `burst` and `coil` alone; the edge `toExpiry` is the expiry, and a new hold begins there. A hold lasts at least
1200 us. -/
def Obligations.HoldLastsExactlyHoldTicks : Prop :=
  ∀ s : State, s.Ok → NoReset s.toExpiry s →
    1200 * s.cfg.clkHz ≤ s.cfg.holdTicks * 1000000 ∧
    1 ≤ s.toExpiry ∧ s.toExpiry ≤ s.cfg.holdTicks ∧ (s.holdCnt = 0 → s.toExpiry = s.cfg.holdTicks) ∧
    (∀ j < s.toExpiry, ∃ t, After j s t ∧ t.holdCnt = s.holdCnt + j ∧ t.phase = s.phase ∧ t.idx = s.idx ∧
      t.burst = s.burst ∧ t.coil = s.coil ∧ (t.expire = true ↔ j + 1 = s.toExpiry)) ∧
    (∃ t, After s.toExpiry s t ∧ t.holdCnt = 0)

/-- R113: the machine over expiry edges. From any point of a hold to the expiry that ends it: the events at the edges
strictly before the expiry are applied in order, then one expiry operation, then the event at the expiry itself. -/
def Obligations.ExpiryToExpiryRefinement : Prop :=
  ∀ s : State, s.Ok → NoReset s.toExpiry s →
    After s.toExpiry s
      { ({ consumeN s.toExpiry s with
            en := (eventsEffect (s.events (s.toExpiry - 1)) (s.en, s.dir)).1
            dir := (eventsEffect (s.events (s.toExpiry - 1)) (s.en, s.dir)).2 } : State).afterExpiry with
        en := (eventsEffect (s.events s.toExpiry) (s.en, s.dir)).1
        dir := (eventsEffect (s.events s.toExpiry) (s.en, s.dir)).2 }

/-- R112: `en` = 1 and `dir` = d at every expiry edge: the table is shown in order of direction d, each entry for exactly
`HOLD_TICKS` cycles; eight advances return to the first index. -/
def Obligations.ConstantRunShowsTableInOrder : Prop :=
  (∀ (k : Nat) (d : Dir) (s : State), s.Ok → s.phase = .stepHold → s.holdCnt = 0 → NoReset (k * s.cfg.holdTicks) s →
    (∀ n < k * s.cfg.holdTicks, ∀ t, After n s t → t.expire = true → t.en = true ∧ t.dir = d) →
    (∀ m < k, ∀ j < s.cfg.holdTicks, ∃ t, After (m * s.cfg.holdTicks + j) s t ∧ t.phase = .stepHold ∧
      t.coil = s.memRead (advN d m s.idx)) ∧
    ∃ t, After (k * s.cfg.holdTicks) s t ∧ t.phase = .stepHold ∧ t.holdCnt = 0 ∧ t.idx = advN d k s.idx ∧
      t.coil = s.memRead (advN d k s.idx)) ∧
  (∀ (i : StepIndex) (d : Dir), advN d 8 i = i) ∧
  (∀ m < 8, advN .cw m 0#3 = BitVec.ofNat 3 m)

/-- R114, one edge: without reset, `idx` changes only at an expiry that ends a step hold, and there to `adv(idx, dir)`. -/
def Obligations.IndexMovesOnePosition : Prop :=
  ∀ s : State, s.Ok → s.rstIn = false → ∃ t, step s = .next t ∧
    t.idx = if s.expire && s.phase == .stepHold then adv s.idx s.dir else s.idx

/-- R115: two consecutive step holds, with any number of idle dwells and any events between them but no reset, show
patterns that differ in exactly one bit. The first hold is at its last cycle in `s`; `t` is the first state of a step
hold after it. A change from or to 0 changes as many bits as the pattern has, one or more with the default table. -/
def Obligations.ConsecutiveStepPatternsDifferInOneBit : Prop :=
  (∀ (n : Nat) (s t : State), s.Ok → s.phase = .stepHold → s.expire = true → NoReset (n + 1) s → After (n + 1) s t →
    t.phase = .stepHold → (∀ k < n, ∀ u, After (k + 1) s u → u.phase = .idleHold) →
    popcount (s.coil ^^^ t.coil) = 1 ∧ (t.idx = adv s.idx .cw ∨ t.idx = adv s.idx .ccw)) ∧
  (∀ p : Pattern, popcount (0#4 ^^^ p) = popcount p ∧ popcount (p ^^^ 0#4) = popcount p) ∧
  (∀ i : StepIndex, 1 ≤ popcount (patternAt defaultPattern i))

/-- R116: `burst` has no effect outside itself: legal machines that differ only in `burst` stay so, and show the same
outputs, under every input sequence; no row of the sequencer decode table examines `L`. -/
def Obligations.BurstIsInvisible : Prop :=
  (∀ (n : Nat) (s s' : State), s.Ok → s'.Ok → EqUpToBurst s s' →
    ∃ t t', After n s t ∧ After n s' t' ∧ EqUpToBurst t t' ∧ t.outputs = t'.outputs) ∧
  (∀ p x e d, tableRow (decodeSelector (selectorWord p x e d true)) = tableRow (decodeSelector (selectorWord p x e d false)))

/-- The arithmetic of the sequencer stays in its bounds (R117): the index modulo 8, `hold_cnt + 1` where it is computed, `burst + 1` where it
is computed, and the registers after every edge. -/
def Obligations.CountersStayInBounds : Prop :=
  (∀ i : StepIndex, (adv i .cw).toNat = (i.toNat + 1) % 8 ∧ (adv i .ccw).toNat = (i.toNat + 8 - 1) % 8) ∧
  (∀ s : State, s.Ok → s.expire = false → s.holdCnt + 1 ≤ s.cfg.holdTicks - 1) ∧
  (∀ s : State, s.Ok → s.last = false → (s.burst + 1#13).toNat = s.burst.toNat + 1 ∧ s.burst.toNat + 1 ≤ 4099) ∧
  (∀ s t : State, s.Ok → step s = .next t → t.holdCnt ≤ s.cfg.holdTicks - 1 ∧ t.burst.toNat ≤ 4099)

/-- R118: the control-transfer graph of `phase`: at an expiry, the operation executed and the phases it leads from and
to; at any other edge SEQ_HOLD, and no transfer. -/
def Obligations.PhaseTransferGraph : Prop :=
  ∀ s : State, s.Ok → s.rstIn = false → ∃ t, step s = .next t ∧
    (s.expire = false → (∃ p e d l, s.seqOp = .seqHold p e d l) ∧ t.phase = s.phase) ∧
    (s.expire = true →
      (s.phase = .idleHold ∧ t.phase = .idleHold ∧ ∃ d l, s.seqOp = .seqIdleRepoll d l) ∨
      (s.phase = .idleHold ∧ t.phase = .stepHold ∧ ∃ d l, s.seqOp = .seqStart d l) ∨
      (s.phase = .stepHold ∧ t.phase = .stepHold ∧ ∃ l, s.seqOp = .seqStepCw l ∨ s.seqOp = .seqStepCcw l) ∨
      (s.phase = .stepHold ∧ t.phase = .idleHold ∧ ∃ l, s.seqOp = .seqStopCw l ∨ s.seqOp = .seqStopCcw l))

/-! ### Reset, latency and held events (70_reset_and_hazards.md) -/

/-- From reset (R182): under any `HOLD_TICKS` inputs without reset, `coil` is 0 until edge `HOLD_TICKS`, the first expiry;
where the events of the edges 1 to `HOLD_TICKS` - 1 leave `en` = 1, that edge is a SEQ_START and shows entry 0. -/
def Obligations.FirstStartAfterReset : Prop :=
  ∀ (c : Config) (ws : List InputWord), c.Legal → c.ClockOk → ws.length = c.holdTicks →
    (∀ w ∈ ws, inputRst w = false) →
    (∀ j < c.holdTicks, ∃ t, After j { State.resetWith c with stimulus := ws } t ∧ t.coil = 0#4 ∧
      (t.expire = true ↔ j = c.holdTicks - 1)) ∧
    ((eventsEffect ((ws.take (c.holdTicks - 1)).map inputEvent) (false, .cw)).1 = true →
      (∃ t d l, After (c.holdTicks - 1) { State.resetWith c with stimulus := ws } t ∧ t.seqOp = .seqStart d l) ∧
      ∃ t, After c.holdTicks { State.resetWith c with stimulus := ws } t ∧ t.phase = .stepHold ∧ t.idx = 0#3 ∧
        t.coil = c.stepPattern[0])

/-- R186: the sequencer reads `en` and `dir` only at expiry edges, pre-edge; so an event at an edge e is acted on at the
next expiry after e, 1 to `HOLD_TICKS` edges later, and exactly `HOLD_TICKS` when e is itself an expiry. -/
def Obligations.EventActsAtNextExpiry : Prop :=
  (∀ (s : State) (en : Bool) (d : Dir), s.Ok → s.rstIn = false → s.expire = false →
    ∃ t u, step s = .next t ∧ step { s with en := en, dir := d } = .next u ∧
      t.phase = u.phase ∧ t.holdCnt = u.holdCnt ∧ t.burst = u.burst ∧ t.idx = u.idx ∧ t.coil = u.coil) ∧
  (∀ (s : State) (ev : EventWord), s.Ok → s.rstIn = false →
    ∃ t u, step s = .next t ∧ step (s.placeEvent ev) = .next u ∧
      t.phase = u.phase ∧ t.holdCnt = u.holdCnt ∧ t.burst = u.burst ∧ t.idx = u.idx ∧ t.coil = u.coil) ∧
  (∀ s : State, s.Ok → s.rstIn = false →
    ∃ t, step s = .next t ∧ 1 ≤ t.toExpiry ∧ t.toExpiry ≤ s.cfg.holdTicks ∧
      (t.toExpiry = s.cfg.holdTicks ↔ s.expire = true) ∧
      (NoReset t.toExpiry t → (∀ j < t.toExpiry - 1, ∃ u, After j t u ∧ u.expire = false) ∧
        ∃ u, After (t.toExpiry - 1) t u ∧ u.expire = true))

/-- Start latency (R187): an EVT_ENABLE at an edge, with `en` still 1 at the next expiry after it, makes `coil` show a
pattern from that expiry, at most `HOLD_TICKS` edges later; inside a step hold that has not expired it keeps the block
stepping, with no zero output. -/
def Obligations.StartLatency : Prop :=
  ∀ s t : State, s.Ok → s.rstIn = false → s.evtOp = .evtEnable → step s = .next t → NoReset t.toExpiry t →
    1 ≤ t.toExpiry ∧ t.toExpiry ≤ s.cfg.holdTicks ∧ t.en = true ∧
    ∃ v w, After (t.toExpiry - 1) t v ∧ v.expire = true ∧ After t.toExpiry t w ∧
      (v.en = true →
        w.phase = .stepHold ∧ w.coil = w.memRead w.idx ∧
        (v.phase = .idleHold → w.idx = s.idx ∨ s.phase = .stepHold) ∧
        (s.phase = .stepHold → s.expire = false →
          ∀ j ≤ t.toExpiry, ∃ u, After j t u ∧ u.phase = .stepHold ∧ u.coil = u.memRead u.idx))

/-- Stop latency (R188): an EVT_DISABLE at an edge, with `en` still 0 at the next expiry after it, makes `coil` 0 from that
expiry, at most `HOLD_TICKS` edges later. Where a step hold is then in progress, the pattern shown until the expiry is
whole, and the stop advances `idx` once. -/
def Obligations.StopLatency : Prop :=
  ∀ s t : State, s.Ok → s.rstIn = false → s.evtOp = .evtDisable → step s = .next t → NoReset t.toExpiry t →
    1 ≤ t.toExpiry ∧ t.toExpiry ≤ s.cfg.holdTicks ∧ t.en = false ∧
    (s.phase = .stepHold → s.expire = false → t.phase = .stepHold ∧ t.idx = s.idx) ∧
    (t.phase = .stepHold → ∀ j < t.toExpiry, ∃ u, After j t u ∧ u.idx = t.idx ∧ u.coil = s.memRead t.idx) ∧
    ∃ v w, After (t.toExpiry - 1) t v ∧ v.expire = true ∧ After t.toExpiry t w ∧
      (v.en = false → w.coil = 0#4 ∧ w.phase = .idleHold ∧ (t.phase = .stepHold → w.idx = adv t.idx v.dir))

/-- Direction latency (R189): `dir` decides nothing but the advance at an expiry that ends a step hold; elsewhere two
machines that differ in `dir` alone leave the same registers, the start of a run among them. -/
def Obligations.DirActsAtStepExpiryOnly : Prop :=
  ∀ (s : State) (d : Dir), s.Ok → s.rstIn = false →
    ∃ t u, step s = .next t ∧ step { s with dir := d } = .next u ∧
      ((s.expire = true → s.phase = .idleHold) → u = { t with dir := u.dir }) ∧
      (s.expire = true → s.phase = .stepHold → t.idx = adv s.idx s.dir ∧ u.idx = adv s.idx d)

/-- A held event is counted once per edge (R190): the same event word at `k` edges executes `k` times. -/
def Obligations.HeldEventCountsEachEdge : Prop :=
  ∀ (k : Nat) (ev : EventWord) (rest : List InputWord) (s : State), s.Ok →
    s.stimulus = List.replicate k (inputWord false ev) ++ rest →
    ∃ t, After k s t ∧ t.stimulus = rest ∧
      (t.en, t.dir) = eventsEffect (List.replicate k ev) (s.en, s.dir) ∧
      (decodeEvent ev = .evtToggleDir → t.dir = if k % 2 = 0 then s.dir else toggled s.dir)

/-- The events of consecutive edges are combined in order, whatever the sequencer does meanwhile (R191): after `n` edges
without reset, `en` and `dir` are those of the event words alone. -/
def Obligations.FlagsFollowEventsAlone : Prop :=
  ∀ (n : Nat) (s : State), s.Ok → NoReset n s →
    ∃ t, After n s t ∧ (t.en, t.dir) = eventsEffect (s.events n) (s.en, s.dir)

/-- A run of a stimulus program (R83): cycle k supplies the inputs of edge k, and the run of a legal machine ends after the
program's last cycle, in a legal state with every word used and none taken from outside the program. A program whose
first cycle is a reset runs from any register state (R180, program 4 of 95_test_vectors.md). -/
def Obligations.ProgramSuppliesItsInputs : Prop :=
  (∀ (p : List InputWord) (s : State), s.Ok →
    (∀ k, (h : k < p.length) → ({ s with stimulus := p } : State).inputAt k = p[k]) ∧
    ∃ t, runProgram p s = .next t ∧ Sys2Proof.core.run p.length { s with stimulus := p } = .next t ∧
      t.Ok ∧ t.stimulus = [] ∧ t.freeCount = s.freeCount) ∧
  (∀ (p : List InputWord) (s : State), s.cfg.Legal → s.cfg.ClockOk →
    runProgram (programWords [.reset] ++ p) s =
      runProgram p { State.resetWith s.cfg with freeCount := s.freeCount })

/-! ### The host's placement of an operation (log 5) -/

/-- Where the model places a word, the next edge selects exactly it, in a legal machine: an event word at the inputs, the
registers unchanged; a selector in the registers it is computed from. A selector needs `HOLD_TICKS` >= 2, since with 1
every edge expires (R78), and `L` = 0 with `P` = 0 (R79). -/
def Obligations.PlacedWordIsSelected : Prop :=
  (∀ (s : State) (w : Nat), w < 512 → s.Ok →
    (s.withFetchWord 16 w).Ok ∧ (s.withFetchWord 16 w).rstIn = false ∧
    decodeTableWord 16 w = some (s.withFetchWord 16 w).evtOp ∧ (s.withFetchWord 16 w).seqOp = s.seqOp ∧
    (s.withFetchWord 16 w).outputs = s.outputs) ∧
  (∀ (s : State) (w : Nat), w < 32 → s.Ok → 2 ≤ s.cfg.holdTicks → (w < 16 → w % 2 = 0) →
    (s.withFetchWord 8 w).Ok ∧ (s.withFetchWord 8 w).rstIn = false ∧
    decodeTableWord 8 w = some (s.withFetchWord 8 w).seqOp ∧ (s.withFetchWord 8 w).evtOp = .evtNone 0#8)
end

