-- ==== Sys2Proof/Laws/Decode.lean ====
section
/-! SUPPORT. The fields of the encoded words, read back from the words they are put together into. -/

namespace Sys2Proof

@[simp] theorem eventValid_eventWord (v : Bool) (m : Byte) : eventValid (eventWord v m) = v := by
  rw [eventValid, eventWord, BitVec.getLsbD_append]
  cases v <;> rfl

@[simp] theorem eventMask_eventWord (v : Bool) (m : Byte) : eventMask (eventWord v m) = m := by
  apply BitVec.eq_of_getLsbD_eq
  intro i hi
  rw [eventMask, eventWord, BitVec.getLsbD_extractLsb', BitVec.getLsbD_append]
  simp [hi]

/-- An event word is its two fields (R71). -/
theorem eventWord_fields (w : EventWord) : eventWord (eventValid w) (eventMask w) = w := by
  apply BitVec.eq_of_getLsbD_eq
  intro i hi
  simp only [eventMask, eventWord, eventValid, BitVec.getLsbD_append, BitVec.getLsbD_extractLsb']
  by_cases h : i < 8
  · simp [h]
  · obtain rfl : i = 8 := by omega
    cases w.getLsbD 8 <;> simp

/-- Decoding a selector put together from its fields (R77, R79). -/
@[simp] theorem decodeSelector_selectorWord (p x e d l : Bool) :
    decodeSelector (selectorWord p x e d l) = decodeFields p x e d l := by
  cases p <;> cases x <;> cases e <;> cases d <;> cases l <;> rfl

/-- A selector is its five fields (R77). -/
theorem selectorWord_fields (w : Selector) :
    selectorWord (w.getLsbD 4) (w.getLsbD 3) (w.getLsbD 2) (w.getLsbD 1) (w.getLsbD 0) = w := by
  revert w; decide

namespace Machine

@[simp] theorem inputRst_inputWord (r : Bool) (ev : EventWord) : inputRst (inputWord r ev) = r := by
  rw [inputRst, inputWord, BitVec.getLsbD_append]
  cases r <;> rfl

@[simp] theorem inputEvent_inputWord (r : Bool) (ev : EventWord) : inputEvent (inputWord r ev) = ev := by
  apply BitVec.eq_of_getLsbD_eq
  intro i hi
  rw [inputEvent, inputWord, BitVec.getLsbD_extractLsb', BitVec.getLsbD_append]
  simp [hi]

/-- The sequencer operation by the registers themselves (R77, R79). -/
theorem State.seqOp_eq (s : State) :
    s.seqOp = decodeFields (phaseBit s.phase) s.expire s.en (dirBit s.dir) s.last := by
  simp [State.seqOp, State.selector]

end Machine

end Sys2Proof
end

