-- ==== Sys2Proof/Laws/State.lean ====
section
/-! SUPPORT. One lemma per field per update of State, so that no later proof unfolds a record update. -/

namespace Sys2Proof.Machine

/-! ### setEn -/

@[simp] theorem State.setEn_cfg (s : State) (v : Bool) : (s.setEn v).cfg = s.cfg := rfl
@[simp] theorem State.setEn_en (s : State) (v : Bool) : (s.setEn v).en = v := rfl
@[simp] theorem State.setEn_dir (s : State) (v : Bool) : (s.setEn v).dir = s.dir := rfl
@[simp] theorem State.setEn_idx (s : State) (v : Bool) : (s.setEn v).idx = s.idx := rfl
@[simp] theorem State.setEn_phase (s : State) (v : Bool) : (s.setEn v).phase = s.phase := rfl
@[simp] theorem State.setEn_holdCnt (s : State) (v : Bool) : (s.setEn v).holdCnt = s.holdCnt := rfl
@[simp] theorem State.setEn_burst (s : State) (v : Bool) : (s.setEn v).burst = s.burst := rfl
@[simp] theorem State.setEn_coil (s : State) (v : Bool) : (s.setEn v).coil = s.coil := rfl
@[simp] theorem State.setEn_stimulus (s : State) (v : Bool) : (s.setEn v).stimulus = s.stimulus := rfl
@[simp] theorem State.setEn_freeCount (s : State) (v : Bool) : (s.setEn v).freeCount = s.freeCount := rfl

/-! ### setDir -/

@[simp] theorem State.setDir_cfg (s : State) (d : Dir) : (s.setDir d).cfg = s.cfg := rfl
@[simp] theorem State.setDir_en (s : State) (d : Dir) : (s.setDir d).en = s.en := rfl
@[simp] theorem State.setDir_dir (s : State) (d : Dir) : (s.setDir d).dir = d := rfl
@[simp] theorem State.setDir_idx (s : State) (d : Dir) : (s.setDir d).idx = s.idx := rfl
@[simp] theorem State.setDir_phase (s : State) (d : Dir) : (s.setDir d).phase = s.phase := rfl
@[simp] theorem State.setDir_holdCnt (s : State) (d : Dir) : (s.setDir d).holdCnt = s.holdCnt := rfl
@[simp] theorem State.setDir_burst (s : State) (d : Dir) : (s.setDir d).burst = s.burst := rfl
@[simp] theorem State.setDir_coil (s : State) (d : Dir) : (s.setDir d).coil = s.coil := rfl
@[simp] theorem State.setDir_stimulus (s : State) (d : Dir) : (s.setDir d).stimulus = s.stimulus := rfl
@[simp] theorem State.setDir_freeCount (s : State) (d : Dir) : (s.setDir d).freeCount = s.freeCount := rfl

/-! ### setIdx -/

@[simp] theorem State.setIdx_cfg (s : State) (i : StepIndex) : (s.setIdx i).cfg = s.cfg := rfl
@[simp] theorem State.setIdx_en (s : State) (i : StepIndex) : (s.setIdx i).en = s.en := rfl
@[simp] theorem State.setIdx_dir (s : State) (i : StepIndex) : (s.setIdx i).dir = s.dir := rfl
@[simp] theorem State.setIdx_idx (s : State) (i : StepIndex) : (s.setIdx i).idx = i := rfl
@[simp] theorem State.setIdx_phase (s : State) (i : StepIndex) : (s.setIdx i).phase = s.phase := rfl
@[simp] theorem State.setIdx_holdCnt (s : State) (i : StepIndex) : (s.setIdx i).holdCnt = s.holdCnt := rfl
@[simp] theorem State.setIdx_burst (s : State) (i : StepIndex) : (s.setIdx i).burst = s.burst := rfl
@[simp] theorem State.setIdx_coil (s : State) (i : StepIndex) : (s.setIdx i).coil = s.coil := rfl
@[simp] theorem State.setIdx_stimulus (s : State) (i : StepIndex) : (s.setIdx i).stimulus = s.stimulus := rfl
@[simp] theorem State.setIdx_freeCount (s : State) (i : StepIndex) : (s.setIdx i).freeCount = s.freeCount := rfl

/-! ### setPhase -/

@[simp] theorem State.setPhase_cfg (s : State) (p : Phase) : (s.setPhase p).cfg = s.cfg := rfl
@[simp] theorem State.setPhase_en (s : State) (p : Phase) : (s.setPhase p).en = s.en := rfl
@[simp] theorem State.setPhase_dir (s : State) (p : Phase) : (s.setPhase p).dir = s.dir := rfl
@[simp] theorem State.setPhase_idx (s : State) (p : Phase) : (s.setPhase p).idx = s.idx := rfl
@[simp] theorem State.setPhase_phase (s : State) (p : Phase) : (s.setPhase p).phase = p := rfl
@[simp] theorem State.setPhase_holdCnt (s : State) (p : Phase) : (s.setPhase p).holdCnt = s.holdCnt := rfl
@[simp] theorem State.setPhase_burst (s : State) (p : Phase) : (s.setPhase p).burst = s.burst := rfl
@[simp] theorem State.setPhase_coil (s : State) (p : Phase) : (s.setPhase p).coil = s.coil := rfl
@[simp] theorem State.setPhase_stimulus (s : State) (p : Phase) : (s.setPhase p).stimulus = s.stimulus := rfl
@[simp] theorem State.setPhase_freeCount (s : State) (p : Phase) : (s.setPhase p).freeCount = s.freeCount := rfl

/-! ### setHoldCnt -/

@[simp] theorem State.setHoldCnt_cfg (s : State) (n : Nat) : (s.setHoldCnt n).cfg = s.cfg := rfl
@[simp] theorem State.setHoldCnt_en (s : State) (n : Nat) : (s.setHoldCnt n).en = s.en := rfl
@[simp] theorem State.setHoldCnt_dir (s : State) (n : Nat) : (s.setHoldCnt n).dir = s.dir := rfl
@[simp] theorem State.setHoldCnt_idx (s : State) (n : Nat) : (s.setHoldCnt n).idx = s.idx := rfl
@[simp] theorem State.setHoldCnt_phase (s : State) (n : Nat) : (s.setHoldCnt n).phase = s.phase := rfl
@[simp] theorem State.setHoldCnt_holdCnt (s : State) (n : Nat) : (s.setHoldCnt n).holdCnt = n % 2 ^ hcW s.cfg.holdTicks := rfl
@[simp] theorem State.setHoldCnt_burst (s : State) (n : Nat) : (s.setHoldCnt n).burst = s.burst := rfl
@[simp] theorem State.setHoldCnt_coil (s : State) (n : Nat) : (s.setHoldCnt n).coil = s.coil := rfl
@[simp] theorem State.setHoldCnt_stimulus (s : State) (n : Nat) : (s.setHoldCnt n).stimulus = s.stimulus := rfl
@[simp] theorem State.setHoldCnt_freeCount (s : State) (n : Nat) : (s.setHoldCnt n).freeCount = s.freeCount := rfl

/-! ### setBurst -/

@[simp] theorem State.setBurst_cfg (s : State) (b : BurstCount) : (s.setBurst b).cfg = s.cfg := rfl
@[simp] theorem State.setBurst_en (s : State) (b : BurstCount) : (s.setBurst b).en = s.en := rfl
@[simp] theorem State.setBurst_dir (s : State) (b : BurstCount) : (s.setBurst b).dir = s.dir := rfl
@[simp] theorem State.setBurst_idx (s : State) (b : BurstCount) : (s.setBurst b).idx = s.idx := rfl
@[simp] theorem State.setBurst_phase (s : State) (b : BurstCount) : (s.setBurst b).phase = s.phase := rfl
@[simp] theorem State.setBurst_holdCnt (s : State) (b : BurstCount) : (s.setBurst b).holdCnt = s.holdCnt := rfl
@[simp] theorem State.setBurst_burst (s : State) (b : BurstCount) : (s.setBurst b).burst = b := rfl
@[simp] theorem State.setBurst_coil (s : State) (b : BurstCount) : (s.setBurst b).coil = s.coil := rfl
@[simp] theorem State.setBurst_stimulus (s : State) (b : BurstCount) : (s.setBurst b).stimulus = s.stimulus := rfl
@[simp] theorem State.setBurst_freeCount (s : State) (b : BurstCount) : (s.setBurst b).freeCount = s.freeCount := rfl

/-! ### setCoil -/

@[simp] theorem State.setCoil_cfg (s : State) (v : Pattern) : (s.setCoil v).cfg = s.cfg := rfl
@[simp] theorem State.setCoil_en (s : State) (v : Pattern) : (s.setCoil v).en = s.en := rfl
@[simp] theorem State.setCoil_dir (s : State) (v : Pattern) : (s.setCoil v).dir = s.dir := rfl
@[simp] theorem State.setCoil_idx (s : State) (v : Pattern) : (s.setCoil v).idx = s.idx := rfl
@[simp] theorem State.setCoil_phase (s : State) (v : Pattern) : (s.setCoil v).phase = s.phase := rfl
@[simp] theorem State.setCoil_holdCnt (s : State) (v : Pattern) : (s.setCoil v).holdCnt = s.holdCnt := rfl
@[simp] theorem State.setCoil_burst (s : State) (v : Pattern) : (s.setCoil v).burst = s.burst := rfl
@[simp] theorem State.setCoil_coil (s : State) (v : Pattern) : (s.setCoil v).coil = v := rfl
@[simp] theorem State.setCoil_stimulus (s : State) (v : Pattern) : (s.setCoil v).stimulus = s.stimulus := rfl
@[simp] theorem State.setCoil_freeCount (s : State) (v : Pattern) : (s.setCoil v).freeCount = s.freeCount := rfl

/-! ### applyReset -/

@[simp] theorem State.applyReset_cfg (s : State) : s.applyReset.cfg = s.cfg := rfl
@[simp] theorem State.applyReset_en (s : State) : s.applyReset.en = false := rfl
@[simp] theorem State.applyReset_dir (s : State) : s.applyReset.dir = .cw := rfl
@[simp] theorem State.applyReset_idx (s : State) : s.applyReset.idx = 0#3 := rfl
@[simp] theorem State.applyReset_phase (s : State) : s.applyReset.phase = .idleHold := rfl
@[simp] theorem State.applyReset_holdCnt (s : State) : s.applyReset.holdCnt = 0 := rfl
@[simp] theorem State.applyReset_burst (s : State) : s.applyReset.burst = 0#13 := rfl
@[simp] theorem State.applyReset_coil (s : State) : s.applyReset.coil = 0#4 := rfl
@[simp] theorem State.applyReset_stimulus (s : State) : s.applyReset.stimulus = s.stimulus := rfl
@[simp] theorem State.applyReset_freeCount (s : State) : s.applyReset.freeCount = s.freeCount := rfl

/-! ### resetWith -/

@[simp] theorem State.resetWith_cfg (c : Config) : (State.resetWith c).cfg = c := rfl
@[simp] theorem State.resetWith_en (c : Config) : (State.resetWith c).en = false := rfl
@[simp] theorem State.resetWith_dir (c : Config) : (State.resetWith c).dir = .cw := rfl
@[simp] theorem State.resetWith_idx (c : Config) : (State.resetWith c).idx = 0#3 := rfl
@[simp] theorem State.resetWith_phase (c : Config) : (State.resetWith c).phase = .idleHold := rfl
@[simp] theorem State.resetWith_holdCnt (c : Config) : (State.resetWith c).holdCnt = 0 := rfl
@[simp] theorem State.resetWith_burst (c : Config) : (State.resetWith c).burst = 0#13 := rfl
@[simp] theorem State.resetWith_coil (c : Config) : (State.resetWith c).coil = 0#4 := rfl
@[simp] theorem State.resetWith_stimulus (c : Config) : (State.resetWith c).stimulus = [] := rfl
@[simp] theorem State.resetWith_freeCount (c : Config) : (State.resetWith c).freeCount = 0 := rfl

/-! ### consumeInput and consumeN: the registers and the configuration stay -/

@[simp] theorem State.consumeInput_cfg (s : State) : s.consumeInput.cfg = s.cfg := by
  unfold State.consumeInput; split <;> rfl
@[simp] theorem State.consumeInput_en (s : State) : s.consumeInput.en = s.en := by
  unfold State.consumeInput; split <;> rfl
@[simp] theorem State.consumeInput_dir (s : State) : s.consumeInput.dir = s.dir := by
  unfold State.consumeInput; split <;> rfl
@[simp] theorem State.consumeInput_idx (s : State) : s.consumeInput.idx = s.idx := by
  unfold State.consumeInput; split <;> rfl
@[simp] theorem State.consumeInput_phase (s : State) : s.consumeInput.phase = s.phase := by
  unfold State.consumeInput; split <;> rfl
@[simp] theorem State.consumeInput_holdCnt (s : State) : s.consumeInput.holdCnt = s.holdCnt := by
  unfold State.consumeInput; split <;> rfl
@[simp] theorem State.consumeInput_burst (s : State) : s.consumeInput.burst = s.burst := by
  unfold State.consumeInput; split <;> rfl
@[simp] theorem State.consumeInput_coil (s : State) : s.consumeInput.coil = s.coil := by
  unfold State.consumeInput; split <;> rfl

@[simp] theorem consumeN_cfg (n : Nat) (s : State) : (consumeN n s).cfg = s.cfg := by
  induction n generalizing s with
  | zero => rfl
  | succ n ih => simp [consumeN, ih]
@[simp] theorem consumeN_en (n : Nat) (s : State) : (consumeN n s).en = s.en := by
  induction n generalizing s with
  | zero => rfl
  | succ n ih => simp [consumeN, ih]
@[simp] theorem consumeN_dir (n : Nat) (s : State) : (consumeN n s).dir = s.dir := by
  induction n generalizing s with
  | zero => rfl
  | succ n ih => simp [consumeN, ih]
@[simp] theorem consumeN_idx (n : Nat) (s : State) : (consumeN n s).idx = s.idx := by
  induction n generalizing s with
  | zero => rfl
  | succ n ih => simp [consumeN, ih]
@[simp] theorem consumeN_phase (n : Nat) (s : State) : (consumeN n s).phase = s.phase := by
  induction n generalizing s with
  | zero => rfl
  | succ n ih => simp [consumeN, ih]
@[simp] theorem consumeN_holdCnt (n : Nat) (s : State) : (consumeN n s).holdCnt = s.holdCnt := by
  induction n generalizing s with
  | zero => rfl
  | succ n ih => simp [consumeN, ih]
@[simp] theorem consumeN_burst (n : Nat) (s : State) : (consumeN n s).burst = s.burst := by
  induction n generalizing s with
  | zero => rfl
  | succ n ih => simp [consumeN, ih]
@[simp] theorem consumeN_coil (n : Nat) (s : State) : (consumeN n s).coil = s.coil := by
  induction n generalizing s with
  | zero => rfl
  | succ n ih => simp [consumeN, ih]

/-! ### beginHold -/

@[simp] theorem State.beginHold_cfg (s : State) (p : Phase) (b : BurstCount) (v : Pattern) : (s.beginHold p b v).cfg = s.cfg := rfl
@[simp] theorem State.beginHold_en (s : State) (p : Phase) (b : BurstCount) (v : Pattern) : (s.beginHold p b v).en = s.en := rfl
@[simp] theorem State.beginHold_dir (s : State) (p : Phase) (b : BurstCount) (v : Pattern) : (s.beginHold p b v).dir = s.dir := rfl
@[simp] theorem State.beginHold_idx (s : State) (p : Phase) (b : BurstCount) (v : Pattern) : (s.beginHold p b v).idx = s.idx := rfl
@[simp] theorem State.beginHold_phase (s : State) (p : Phase) (b : BurstCount) (v : Pattern) : (s.beginHold p b v).phase = p := rfl
@[simp] theorem State.beginHold_holdCnt (s : State) (p : Phase) (b : BurstCount) (v : Pattern) : (s.beginHold p b v).holdCnt = 0 := by simp [State.beginHold]
@[simp] theorem State.beginHold_burst (s : State) (p : Phase) (b : BurstCount) (v : Pattern) : (s.beginHold p b v).burst = b := rfl
@[simp] theorem State.beginHold_coil (s : State) (p : Phase) (b : BurstCount) (v : Pattern) : (s.beginHold p b v).coil = v := rfl
@[simp] theorem State.beginHold_stimulus (s : State) (p : Phase) (b : BurstCount) (v : Pattern) : (s.beginHold p b v).stimulus = s.stimulus := rfl
@[simp] theorem State.beginHold_freeCount (s : State) (p : Phase) (b : BurstCount) (v : Pattern) : (s.beginHold p b v).freeCount = s.freeCount := rfl

end Sys2Proof.Machine
end

