-- ==== Sys2Proof/Laws/Operations.lean ====
section
/-! SUPPORT. One specification lemma per shared operation: what it can do, said once. -/

namespace Sys2Proof.Machine

/-! ### The width of the hold counter (R6) -/

theorem holdTicks_le_hcW (n : Nat) : n ≤ 2 ^ hcW n := by
  unfold hcW
  split
  · omega
  · have := Nat.lt_log2_self (n := n - 1)
    omega

/-- `HC_W` is the spec's max(1, ceil(log2(`HOLD_TICKS`))). -/
theorem hcW_eq_max_clog (n : Nat) : hcW n = max 1 (Nat.clog 2 n) := by
  unfold hcW
  split
  · next h =>
    have : Nat.clog 2 n ≤ 1 := (Nat.clog_le_iff_le_pow (by omega)).2 (by omega)
    omega
  · next h =>
    have hup : n ≤ 2 ^ (Nat.log2 (n - 1) + 1) := by
      have := Nat.lt_log2_self (n := n - 1); omega
    have hlo : 2 ^ Nat.log2 (n - 1) < n := by
      have := Nat.log2_self_le (n := n - 1) (by omega); omega
    have h1 : Nat.clog 2 n ≤ Nat.log2 (n - 1) + 1 := (Nat.clog_le_iff_le_pow (by omega)).2 hup
    have h2 : Nat.log2 (n - 1) < Nat.clog 2 n := (Nat.lt_clog_iff_pow_lt (by omega)).2 hlo
    omega

/-- A count that fits a hold is written unchanged (R26). -/
theorem State.setHoldCnt_of_lt {s : State} {n : Nat} (h : n < s.cfg.holdTicks) :
    s.setHoldCnt n = { s with holdCnt := n } := by
  have := holdTicks_le_hcW s.cfg.holdTicks
  simp [State.setHoldCnt, Nat.mod_eq_of_lt (by omega : n < 2 ^ hcW s.cfg.holdTicks)]

/-! ### Directions and phases -/

@[simp] theorem toggled_cw : toggled .cw = .ccw := rfl
@[simp] theorem toggled_ccw : toggled .ccw = .cw := rfl
@[simp] theorem dirOfBit_dirBit (d : Dir) : dirOfBit (dirBit d) = d := by cases d <;> rfl
@[simp] theorem dirBit_dirOfBit (b : Bool) : dirBit (dirOfBit b) = b := by cases b <;> rfl
@[simp] theorem phaseOfBit_phaseBit (p : Phase) : phaseOfBit (phaseBit p) = p := by cases p <;> rfl
@[simp] theorem phaseBit_phaseOfBit (b : Bool) : phaseBit (phaseOfBit b) = b := by cases b <;> rfl

/-! ### The advance function and the multiplexers -/

theorem adv_cw (i : StepIndex) : adv i .cw = i + 1#3 := by
  apply BitVec.eq_of_toNat_eq; simp [adv]

theorem adv_ccw (i : StepIndex) : adv i .ccw = i - 1#3 := by
  apply BitVec.eq_of_toNat_eq; simp [adv]; omega

@[simp] theorem State.coilMux_true (s : State) (j : StepIndex) : s.coilMux true j = s.memRead j := rfl
@[simp] theorem State.coilMux_false (s : State) (j : StepIndex) : s.coilMux false j = 0#4 := rfl

@[simp] theorem State.memRead_consumeInput (s : State) (i : StepIndex) : s.consumeInput.memRead i = s.memRead i := by
  simp [State.memRead]

@[simp] theorem State.memRead_consumeN (n : Nat) (s : State) (i : StepIndex) :
    (consumeN n s).memRead i = s.memRead i := by
  simp [State.memRead]

theorem State.last_iff (s : State) : s.last = true ↔ s.burst = 4099#13 := by
  rw [State.last, beq_iff_eq, ← BitVec.toNat_inj]; rfl

theorem State.expire_iff (s : State) : s.expire = true ↔ s.holdCnt = s.cfg.holdTicks - 1 := by
  simp [State.expire]

/-- A burst inside its range stays inside (R27, R117). -/
theorem State.nextBurst_le {s : State} (h : s.burst.toNat ≤ burstLen - 1) : s.nextBurst.toNat ≤ burstLen - 1 := by
  unfold State.nextBurst
  split
  · simp
  · next hl =>
    have : s.burst.toNat ≠ burstLen - 1 := by simpa [State.last] using hl
    simp only [burstLen] at *
    rw [BitVec.toNat_add]
    simp only [BitVec.toNat_ofNat]
    omega

/-! ### The holds -/

/-- What the beginning of a hold writes (R104, R105). -/
theorem State.beginHold_eq (s : State) (p : Phase) (b : BurstCount) (v : Pattern) :
    s.beginHold p b v = { s with holdCnt := 0, phase := p, burst := b, coil := v } := by
  simp [State.beginHold, State.setHoldCnt, State.setPhase, State.setBurst, State.setCoil]

/-- What the end of a step hold writes while enabled (R106, R107). -/
theorem State.stepRun_eq (s : State) (d : Dir) :
    s.stepRun d =
      { s with
        holdCnt := 0, phase := .stepHold, burst := s.nextBurst, idx := adv s.idx d, coil := s.memRead (adv s.idx d) } := by
  rw [State.stepRun, State.beginHold_eq]; rfl

/-- What the end of a step hold writes after a disable (R108, R109). -/
theorem State.stopRun_eq (s : State) (d : Dir) :
    s.stopRun d =
      { s with holdCnt := 0, phase := .idleHold, burst := 0#13, idx := adv s.idx d, coil := 0#4 } := by
  rw [State.stopRun, State.beginHold_eq]; rfl

end Sys2Proof.Machine
end

