-- ==== Sys2Proof/Laws/PerInstr.lean ====
section
/-!
SUPPORT. The family RowEncoding: the word of a well-formed operation matches the operation's row of
spec/opcode_table.json (30_encoding.md R70).
-/

namespace Sys2Proof.Laws

/-- The encoded word of `i` matches the table's row of `i`. -/
def RowEncoding.Statement (i : Instr) : Prop := i.wf = true → rowMatches (tableRow i) (encode i) = true

theorem RowEncoding.evtNone (m : Byte) : RowEncoding.Statement (.evtNone m) := by
  intro _; revert m; decide
theorem RowEncoding.evtEnable : RowEncoding.Statement .evtEnable := by intro _; decide
theorem RowEncoding.evtDisable : RowEncoding.Statement .evtDisable := by intro _; decide
theorem RowEncoding.evtToggleDir : RowEncoding.Statement .evtToggleDir := by intro _; decide
theorem RowEncoding.evtReserved : RowEncoding.Statement .evtReserved := by intro _; decide
theorem RowEncoding.evtIgnore (m : Byte) : RowEncoding.Statement (.evtIgnore m) := by
  intro _; revert m; decide
theorem RowEncoding.seqHold (p e d l : Bool) : RowEncoding.Statement (.seqHold p e d l) := by
  intro _; revert p e d l; decide
theorem RowEncoding.seqIdleRepoll (d l : Bool) : RowEncoding.Statement (.seqIdleRepoll d l) := by
  intro _; revert d l; decide
theorem RowEncoding.seqStart (d l : Bool) : RowEncoding.Statement (.seqStart d l) := by
  intro _; revert d l; decide
theorem RowEncoding.seqStepCw (l : Bool) : RowEncoding.Statement (.seqStepCw l) := by
  intro _; revert l; decide
theorem RowEncoding.seqStepCcw (l : Bool) : RowEncoding.Statement (.seqStepCcw l) := by
  intro _; revert l; decide
theorem RowEncoding.seqStopCw (l : Bool) : RowEncoding.Statement (.seqStopCw l) := by
  intro _; revert l; decide
theorem RowEncoding.seqStopCcw (l : Bool) : RowEncoding.Statement (.seqStopCcw l) := by
  intro _; revert l; decide

end Sys2Proof.Laws
end

