-- ==== Sys2Proof/Laws/Step.lean ====
section
/-! SUPPORT. What an edge can do, said once, and the bookkeeping of runs. -/

namespace Sys2Proof.Machine

/-- Two operations in a row answer a state exactly when both do. -/
theorem andThen_next_iff {a : Answer} {f : State → Answer} {t : State} :
    andThen a f = .next t ↔ ∃ u, a = .next u ∧ f u = .next t := by
  cases a <;> simp [andThen]

@[simp] theorem andThen_next (s : State) (f : State → Answer) : andThen (.next s) f = f s := rfl

/-- An edge that answers a state met its conditions, and was a reset or ran both operations (R155). -/
theorem step_cases {s t : State} (h : step s = .next t) :
    s.cfg.Legal ∧ s.cfg.ClockOk ∧
      ((s.rstIn = true ∧ t = s.consumeInput.applyReset) ∨
       (s.rstIn = false ∧ s.Legal ∧
         ∃ u, exec s.seqOp s.consumeInput = .next u ∧ exec s.evtOp u = .next t)) := by
  unfold step clockEdge at h
  split at h
  · cases h
  rename_i h1
  split at h
  · cases h
  rename_i h2
  refine ⟨not_not.mp h1, not_not.mp h2, ?_⟩
  split at h
  · rename_i h3
    cases h
    exact .inl ⟨h3, rfl⟩
  rename_i h3
  split at h
  · cases h
  rename_i h4
  exact .inr ⟨by simpa using h3, not_not.mp h4, andThen_next_iff.mp h⟩

/-! ### The inputs of a run -/

theorem State.nextInput_eq_inputAt (s : State) : s.nextInput = s.inputAt 0 := by
  unfold State.nextInput State.inputAt
  cases s.stimulus <;> simp

theorem State.inputAt_consumeInput (s : State) (k : Nat) : s.consumeInput.inputAt k = s.inputAt (k + 1) := by
  unfold State.consumeInput State.inputAt
  cases h : s.stimulus with
  | nil => simp [Nat.add_comm, Nat.add_left_comm]
  | cons w ws =>
    simp only [List.getElem?_cons_succ, List.length_cons]
    cases ws[k]? <;> simp

/-- The inputs depend on the queue and the counter alone. -/
theorem State.inputAt_congr {s t : State} (h1 : s.stimulus = t.stimulus) (h2 : s.freeCount = t.freeCount) (k : Nat) :
    s.inputAt k = t.inputAt k := by
  unfold State.inputAt; rw [h1, h2]

/-- The events of a run, first edge first. -/
theorem State.events_succ (s : State) (n : Nat) :
    s.events (n + 1) = inputEvent s.nextInput :: s.consumeInput.events n := by
  simp [State.events, List.range_succ_eq_map, State.nextInput_eq_inputAt, State.inputAt_consumeInput, Function.comp_def]

/-- A run of `n + 1` edges is an edge and a run of `n`. -/
theorem after_succ_iff {n : Nat} {s t : State} : After (n + 1) s t ↔ ∃ u, step s = .next u ∧ After n u t :=
  andThen_next_iff

@[simp] theorem after_zero_iff {s t : State} : After 0 s t ↔ s = t := by
  simp [After, runEdges]

/-- The host's run of the machine is a run of edges. -/
theorem core_run_eq (n : Nat) (s : State) : Sys2Proof.core.run n s = runEdges n s := by
  induction n generalizing s with
  | zero => rfl
  | succ n ih =>
    simp only [Host.Core.run, runEdges]
    have h : Sys2Proof.core.step s = step s := rfl
    rw [h]
    cases step s with
    | next u => exact ih u
    | fault r => rfl
    | refused r => rfl

end Sys2Proof.Machine
end

