-- ==== Sys2Proof/Tests/Slice0.lean ====
section
/-!
SUPPORT. The model's own tests. Expected values come from spec/: the encodings of 30_encoding.md and the vectors of
95_test_vectors.md, named at each test; then one witness for the hypotheses of each statement.
-/

namespace Sys2Proof.Tests

open Sys2Proof.Machine

/-- A configuration with the default table and a clock slow enough for any `HOLD_TICKS` of the vectors. -/
def testCfg (holdTicks : Nat) : Config := { Config.default with holdTicks := holdTicks, clkHz := 800 }

/-- A state as 95_test_vectors.md writes it, `phase / hold_cnt / en / dir / idx / burst / coil`, with queued inputs. -/
def mk (holdTicks : Nat) (phase : Phase) (hc : Nat) (en : Bool) (dir : Dir) (idx burst coil : Nat)
    (inputs : List InputWord) : State :=
  { cfg := testCfg holdTicks, en := en, dir := dir, idx := BitVec.ofNat 3 idx, phase := phase, holdCnt := hc,
    burst := BitVec.ofNat 13 burst, coil := BitVec.ofNat 4 coil, stimulus := inputs, freeCount := 0 }

/-- The next state of an answer, where it is one. -/
def got : Answer → Option State
  | .next s => some s
  | .fault _ => none
  | .refused _ => none

/-- The refusal of an answer, where it is one. -/
def refusal : Answer → Option Refusal
  | .next _ => none
  | .fault _ => none
  | .refused r => some r

theorem eq_next_of_got {a : Answer} {s : State} (h : got a = some s) : a = .next s := by
  cases a <;> simp_all [got]

theorem eq_refused_of_refusal {a : Answer} {r : Refusal} (h : refusal a = some r) : a = .refused r := by
  cases a <;> simp_all [refusal]

/-! ### Well-formedness: each code as an ill-formed mask of EVT_IGNORE is refused (R136) -/

theorem test_wf_refuses_ignore_button0 : (Instr.evtIgnore 0x04#8).wf = false := by decide
theorem test_wf_refuses_ignore_button1 : (Instr.evtIgnore 0x08#8).wf = false := by decide
theorem test_wf_refuses_ignore_button2 : (Instr.evtIgnore 0x10#8).wf = false := by decide
theorem test_wf_refuses_ignore_button3 : (Instr.evtIgnore 0x20#8).wf = false := by decide
theorem test_wf_accepts_ignore_0x0C : (Instr.evtIgnore 0x0C#8).wf = true := by decide

/-! ### Decoding: words written bit by bit from R71, R73, R77, R79; table 2.3 and vectors E of 95_test_vectors.md -/

theorem test_decode_evt_none : decodeEvent 0b000000100#9 = .evtNone 0x04#8 := by decide
theorem test_decode_evt_enable : decodeEvent 0b100000100#9 = .evtEnable := by decide
theorem test_decode_evt_disable : decodeEvent 0b100001000#9 = .evtDisable := by decide
theorem test_decode_evt_toggle_dir : decodeEvent 0b100010000#9 = .evtToggleDir := by decide
theorem test_decode_evt_reserved : decodeEvent 0b100100000#9 = .evtReserved := by decide
theorem test_decode_evt_ignore_0x99 : decodeEvent 0b110011001#9 = .evtIgnore 0x99#8 := by decide
theorem test_decode_evt_ignore_0x14 : decodeEvent 0b100010100#9 = .evtIgnore 0x14#8 := by decide
theorem test_decode_seq_hold : decodeSelector 0b10111#5 = .seqHold true true true true := by decide
theorem test_decode_seq_idle_repoll : decodeSelector 0b01010#5 = .seqIdleRepoll true false := by decide
theorem test_decode_seq_start : decodeSelector 0b01110#5 = .seqStart true false := by decide
theorem test_decode_seq_step_cw : decodeSelector 0b11101#5 = .seqStepCw true := by decide
theorem test_decode_seq_step_ccw : decodeSelector 0b11110#5 = .seqStepCcw false := by decide
theorem test_decode_seq_stop_cw : decodeSelector 0b11001#5 = .seqStopCw true := by decide
theorem test_decode_seq_stop_ccw : decodeSelector 0b11010#5 = .seqStopCcw false := by decide
theorem test_decode_rejects_wide_event : decode 16 0x200 = .error .eventWordTooWide := by decide
theorem test_decode_rejects_wide_selector : decode 8 0x20 = .error .selectorTooWide := by decide

/-! ### One edge: the event operations (vectors E; the sequencer executes SEQ_HOLD) -/

/-- `en` and `dir` after one edge with the input word `w`. -/
def flagsAfter (en : Bool) (dir : Dir) (w : InputWord) : Option (Bool × Dir) :=
  (got (step (mk 3 .idleHold 0 en dir 0 0 0 [w]))).map fun t => (t.en, t.dir)

theorem test_evt_none_E8 : flagsAfter false .ccw 0x004#10 = some (false, .ccw) := by decide
theorem test_evt_none_E9 : flagsAfter true .cw 0x010#10 = some (true, .cw) := by decide
theorem test_evt_enable_E1 : flagsAfter false .cw 0x104#10 = some (true, .cw) := by decide
theorem test_evt_enable_E2 : flagsAfter true .cw 0x104#10 = some (true, .cw) := by decide
theorem test_evt_disable_E3 : flagsAfter true .ccw 0x108#10 = some (false, .ccw) := by decide
theorem test_evt_disable_E4 : flagsAfter false .ccw 0x108#10 = some (false, .ccw) := by decide
theorem test_evt_toggle_dir_E5 : flagsAfter true .cw 0x110#10 = some (true, .ccw) := by decide
theorem test_evt_toggle_dir_E6 : flagsAfter false .ccw 0x110#10 = some (false, .cw) := by decide
theorem test_evt_reserved_E7 : flagsAfter true .cw 0x120#10 = some (true, .cw) := by decide
theorem test_evt_ignore_E13 : flagsAfter false .ccw 0x199#10 = some (false, .ccw) := by decide
theorem test_evt_ignore_E11 : flagsAfter false .cw 0x10C#10 = some (false, .cw) := by decide

/-! ### One edge: the sequencer operations (vectors S), reset (vectors Z) -/

/-- `phase`, `idx` and `coil` after one edge. -/
def motionAfter (s : State) : Option (Phase × Nat × Nat) :=
  (got (step s)).map fun t => (t.phase, t.idx.toNat, t.coil.toNat)

/-- `hold_cnt` and `burst` after one edge. -/
def countersAfter (s : State) : Option (Nat × Nat) :=
  (got (step s)).map fun t => (t.holdCnt, t.burst.toNat)

theorem test_seq_hold_S1 : countersAfter (mk 3 .stepHold 0 true .cw 2 7 0x2 [0x000#10]) = some (1, 7) := by decide
theorem test_seq_hold_S2 : motionAfter (mk 3 .stepHold 1 false .ccw 2 7 0x2 [0x000#10]) = some (.stepHold, 2, 0x2) := by
  decide
theorem test_seq_idle_repoll_S4 : countersAfter (mk 3 .idleHold 2 false .cw 5 0 0x0 [0x000#10]) = some (0, 0) := by decide
theorem test_seq_idle_repoll_S5 : motionAfter (mk 3 .idleHold 2 false .ccw 5 0 0x0 [0x104#10]) = some (.idleHold, 5, 0x0) := by
  decide
theorem test_seq_start_S7 : motionAfter (mk 3 .idleHold 2 true .ccw 4 0 0x0 [0x000#10]) = some (.stepHold, 4, 0x4) := by decide
theorem test_seq_start_S8 : motionAfter (mk 3 .idleHold 2 true .cw 6 0 0x0 [0x108#10]) = some (.stepHold, 6, 0x8) := by decide
theorem test_seq_step_cw_S11 : motionAfter (mk 3 .stepHold 2 true .cw 7 10 0x9 [0x000#10]) = some (.stepHold, 0, 0x1) := by
  decide
theorem test_seq_step_cw_S12 : countersAfter (mk 3 .stepHold 2 true .cw 3 4099 0x6 [0x000#10]) = some (0, 0) := by decide
theorem test_seq_step_ccw_S15 : motionAfter (mk 3 .stepHold 2 true .ccw 0 0 0x1 [0x000#10]) = some (.stepHold, 7, 0x9) := by
  decide
theorem test_seq_step_ccw_S16 : countersAfter (mk 3 .stepHold 2 true .ccw 5 2 0xC [0x000#10]) = some (0, 3) := by decide
theorem test_seq_stop_cw_S19 : motionAfter (mk 3 .stepHold 2 false .cw 7 4099 0x9 [0x000#10]) = some (.idleHold, 0, 0x0) := by
  decide
theorem test_seq_stop_cw_S18 : countersAfter (mk 3 .stepHold 2 false .cw 3 12 0x6 [0x000#10]) = some (0, 0) := by decide
theorem test_seq_stop_ccw_S21 : motionAfter (mk 3 .stepHold 2 false .ccw 0 1 0x1 [0x000#10]) = some (.idleHold, 7, 0x0) := by
  decide
theorem test_seq_stop_ccw_S22 : countersAfter (mk 3 .stepHold 2 false .ccw 6 4099 0x8 [0x000#10]) = some (0, 0) := by decide
theorem test_every_edge_expires_S23 : motionAfter (mk 1 .stepHold 0 true .cw 4 0 0x4 [0x000#10]) = some (.stepHold, 5, 0xC) := by
  decide
theorem test_reset_Z1 : motionAfter (mk 3 .stepHold 1 true .ccw 3 8 0x6 [0x200#10]) = some (.idleHold, 0, 0x0) := by decide
theorem test_reset_discards_event_Z2 :
    (got (step (mk 3 .stepHold 1 true .ccw 3 8 0x6 [0x310#10]))).map (fun t => (t.en, t.dir)) = some (false, .cw) := by decide

/-! ### Refusals (R7, R31, R6), the default table (L1-1), the stimulus notation (program 3) -/

theorem test_refuses_zero_hold_ticks : refusal (step (mk 0 .idleHold 0 false .cw 0 0 0 [0x000#10])) = some .illegalConfiguration := by
  decide
theorem test_refuses_illegal_state : refusal (step (mk 3 .idleHold 0 false .cw 0 0 0x1 [0x000#10])) = some .illegalState := by
  decide
theorem test_default_table_is_half_step : HalfStep defaultPattern := by decide
theorem test_table_with_a_double_change_refused : ¬ HalfStep (defaultPattern.set 2 0x4#4) := by decide

theorem test_read_program :
    (readProgram 2 ['N', 'O', 'P', ' ', ' ', ';', ' ', 'x', '\n', 'E', 'V', 'T', ' ', '0', 'x', '9', '9', '\n',
      'E', 'N', 'A', 'B', 'L', 'E', '\n', 'N', 'O', 'P', ' ', '2']).map programWords =
    some [0x000#10, 0x199#10, 0x104#10, 0x000#10, 0x000#10] := by decide

theorem test_read_refuses_nop_0 : readProgram 2 ['N', 'O', 'P', ' ', '0'] = none := by decide

/-- Each row's word, placed after reset, runs as the first operation (log 5). -/
theorem test_first_step_runs_seq_step_ccw : motionAfter (State.reset.withFetchWord 8 0b11110) = some (.stepHold, 7, 0x9) := by
  decide
theorem test_first_step_runs_evt_enable :
    (got (step (State.reset.withFetchWord 16 0x104))).map (fun t => t.en) = some true := by decide

/-! ### Witnesses: states and operands that meet the hypotheses of each statement -/

/-- One cycle before the expiry of a step hold, with `HOLD_TICKS` = 3. -/
def wHold (inputs : List InputWord) : State := mk 3 .stepHold 1 true .cw 2 7 0x2 inputs
/-- The last cycle of a step hold, with `HOLD_TICKS` = 3. -/
def wStep (inputs : List InputWord) : State := mk 3 .stepHold 2 true .ccw 0 4099 0x1 inputs
/-- The last cycle of a step hold, disabled. -/
def wStop (inputs : List InputWord) : State := mk 3 .stepHold 2 false .cw 7 4099 0x9 inputs
/-- The last cycle of an idle dwell, enabled. -/
def wIdle (inputs : List InputWord) : State := mk 3 .idleHold 2 true .ccw 4 0 0x0 inputs

theorem wit_DecodeInvertsEncode : (Instr.evtIgnore 0x99#8).wf = true := by decide
theorem wit_RowsSelectOneOperation_seqsel : rowMatches (tableRow (.seqStopCw true)) (.seqsel 0b11001#5) = true := by decide
theorem wit_RowsSelectOneOperation_event : rowMatches (tableRow .evtEnable) (.event 0x104#9) = true := by decide
theorem wit_EventDecodeTable : (0x00#8 : Byte) ≠ 0x04#8 ∧ (0x00#8 : Byte) ≠ 0x08#8 ∧ (0x00#8 : Byte) ≠ 0x10#8 ∧ (0x00#8 : Byte) ≠ 0x20#8 := by
  decide
theorem wit_SelectorDecodeTable_one_tick :
    (mk 1 .stepHold 0 true .cw 4 0 0x4 []).Ok ∧ (mk 1 .stepHold 0 true .cw 4 0 0x4 []).cfg.holdTicks = 1 := by decide
theorem wit_SelectorDecodeTable_idle : (wIdle []).Ok ∧ (wIdle []).phase = .idleHold := by decide
theorem wit_StepRunsDecodedOperations : (wStep [0x108#10]).Ok ∧ (wStep [0x108#10]).rstIn = false := by decide
theorem wit_OperationsOfAnEdgeCommute : (Instr.seqStepCw true).isEvent = false ∧ Instr.evtToggleDir.isEvent = true := by decide
theorem wit_EdgeInClosedForm_expiry : (wStop [0x104#10]).Ok ∧ (wStop [0x104#10]).rstIn = false ∧ (wStop [0x104#10]).expire = true := by
  decide
theorem wit_EdgeInClosedForm_hold : (wHold [0x110#10]).Ok ∧ (wHold [0x110#10]).rstIn = false ∧ (wHold [0x110#10]).expire = false := by
  decide
/-- Registers no run reaches: a reset edge is defined there too. -/
theorem wit_ResetEdgeGivesResetValues :
    (mk 3 .idleHold 7 true .ccw 3 8 0x6 [0x310#10]).cfg.Legal ∧ (mk 3 .idleHold 7 true .ccw 3 8 0x6 [0x310#10]).cfg.ClockOk ∧
    (mk 3 .idleHold 7 true .ccw 3 8 0x6 [0x310#10]).rstIn = true := by decide
theorem wit_OutputsShowRegisters : step (wHold [0x000#10]) = .next (mk 3 .stepHold 2 true .cw 2 7 0x2 []) :=
  eq_next_of_got (by decide)
theorem wit_ResetStateIsLegal : (testCfg 1).Legal ∧ (testCfg 1).ClockOk := by decide
theorem wit_StepKeepsLegality :
    (wStop [0x104#10]).Ok ∧ step (wStop [0x104#10]) = .next (mk 3 .idleHold 0 true .cw 0 0 0x0 []) :=
  ⟨by decide, eq_next_of_got (by decide)⟩
theorem wit_OperationsKeepLegalStates_selected : (wIdle []).cfg.Legal ∧ (wIdle []).Legal := by decide
theorem wit_OperationsKeepLegalStates_event : Instr.evtDisable.isEvent = true ∧ (wStep []).Legal := by decide
theorem wit_OperationsKeepLegalStates_refused :
    (mk 3 .stepHold 3 true .cw 0 0 0x1 [0x000#10]).cfg.Legal ∧ (mk 3 .stepHold 3 true .cw 0 0 0x1 [0x000#10]).cfg.ClockOk ∧
    (mk 3 .stepHold 3 true .cw 0 0 0x1 [0x000#10]).rstIn = false ∧ ¬ (mk 3 .stepHold 3 true .cw 0 0 0x1 [0x000#10]).Legal := by
  decide
theorem wit_LegalMachineNeverStops : State.reset.Ok := by decide
theorem wit_IllegalConfigurationRefused : ¬ (mk 0 .idleHold 0 false .cw 0 0 0 []).cfg.Legal ∧ (0 : Nat) < 8 ∧ 7 < 8 := by decide
theorem wit_RefusalsAreTheNamedOnes_clock :
    Config.default.Legal ∧ { Config.default with clkHz := 1000001 }.holdTicks * 1000000 < 1200 * 1000001 := by decide
theorem wit_RefusalsAreTheNamedOnes_config :
    step (mk 0 .idleHold 0 false .cw 0 0 0 [0x000#10]) = .refused .illegalConfiguration := eq_refused_of_refusal (by decide)
theorem wit_RefusalsAreTheNamedOnes_state :
    step (mk 3 .stepHold 3 true .cw 0 0 0x1 [0x000#10]) = .refused .illegalState := eq_refused_of_refusal (by decide)
theorem wit_TableReadByThreeOperations :
    exec (.seqStopCw true) (wStop []) = .next (mk 3 .idleHold 0 false .cw 0 0 0x0 []) := eq_next_of_got (by decide)
theorem wit_TableReadByThreeOperations_other :
    (∀ d l, Instr.seqStopCw true ≠ .seqStart d l) ∧ (∀ l, Instr.seqStopCw true ≠ .seqStepCw l) ∧
    (∀ l, Instr.seqStopCw true ≠ .seqStepCcw l) := by decide
theorem wit_PortMergeKeepsOtherBits : (3 < 8 ∧ 3 < 4) ∧ (4 < 8 ∧ ¬ 4 < 4) := by decide
theorem wit_NoOpEventsWriteNothing : (0x0C#8 : Byte) ≠ 0x04#8 ∧ (0x0C#8 : Byte) ≠ 0x08#8 ∧ (0x0C#8 : Byte) ≠ 0x10#8 ∧ (0x0C#8 : Byte) ≠ 0x20#8 := by
  decide
theorem wit_ToggleReversesDir : (wHold []).dir = .cw ∧ (wStep []).dir = .ccw := by decide
theorem wit_EventOperationFrame :
    Instr.evtToggleDir.isEvent = true ∧ exec .evtToggleDir (wHold []) = .next (mk 3 .stepHold 1 true .ccw 2 7 0x2 []) :=
  ⟨by decide, eq_next_of_got (by decide)⟩
theorem wit_EventsCombine :
    Instr.evtEnable.isEvent = true ∧ exec .evtEnable (wStop []) = .next (mk 3 .stepHold 2 true .cw 7 4099 0x9 []) ∧
    decodeEvent 0x104#9 = .evtEnable := ⟨by decide, eq_next_of_got (by decide), by decide⟩
theorem wit_DirNeverChangesPhase : (wIdle [0x110#10]).Ok ∧ (wIdle [0x110#10]).rstIn = false := by decide
theorem wit_EnableMultiplexer_idle : (wIdle [0x108#10]).Ok ∧ (wIdle [0x108#10]).rstIn = false ∧ (wIdle [0x108#10]).expire = true ∧
    (wIdle [0x108#10]).en = true ∧ (wIdle [0x108#10]).phase = .idleHold := by decide
theorem wit_EnableMultiplexer_step : (wStep [0x108#10]).Ok ∧ (wStep [0x108#10]).rstIn = false ∧ (wStep [0x108#10]).expire = true ∧
    (wStep [0x108#10]).en = true ∧ (wStep [0x108#10]).phase = .stepHold := by decide
theorem wit_HoldCountsOneCycle : (wHold []).Ok ∧ (wHold []).holdCnt ≠ (wHold []).cfg.holdTicks - 1 := by decide
theorem wit_HoldCountsOneCycle_edge : (wHold [0x104#10]).Ok ∧ (wHold [0x104#10]).rstIn = false ∧
    (wHold [0x104#10]).holdCnt ≠ (wHold [0x104#10]).cfg.holdTicks - 1 := by decide
theorem wit_HoldCountsOneCycle_one_tick :
    (mk 1 .idleHold 0 true .cw 4 0 0x0 []).Ok ∧ (mk 1 .idleHold 0 true .cw 4 0 0x0 []).cfg.holdTicks = 1 := by decide
theorem wit_StepExpiryOperations : (wStep [0x110#10]).Ok ∧ (wStep [0x110#10]).rstIn = false ∧ (wStep [0x110#10]).expire = true ∧
    (wStep [0x110#10]).phase = .stepHold ∧ (wStep [0x110#10]).en = true := by decide
theorem wit_StopExpiryOperations : (wStop [0x104#10]).Ok ∧ (wStop [0x104#10]).rstIn = false ∧ (wStop [0x104#10]).expire = true ∧
    (wStop [0x104#10]).phase = .stepHold ∧ (wStop [0x104#10]).en = false := by decide
theorem wit_SequencerOperationFrame : (Instr.seqHold false false true true).isEvent = false := by decide
theorem wit_InnerRunReentryIsInvisible : (wStep []).burst = 4099#13 := by decide
theorem wit_HoldLastsExactlyHoldTicks :
    (mk 3 .stepHold 0 true .cw 2 7 0x2 [0x000#10, 0x104#10, 0x108#10]).Ok ∧
    NoReset (mk 3 .stepHold 0 true .cw 2 7 0x2 [0x000#10, 0x104#10, 0x108#10]).toExpiry
      (mk 3 .stepHold 0 true .cw 2 7 0x2 [0x000#10, 0x104#10, 0x108#10]) := by decide
theorem wit_ExpiryToExpiryRefinement :
    (wHold [0x110#10, 0x108#10]).Ok ∧ NoReset (wHold [0x110#10, 0x108#10]).toExpiry (wHold [0x110#10, 0x108#10]) := by decide
/-- `HOLD_TICKS` = 1 and one hold: the only state the last hypothesis asks about is the first. -/
theorem wit_ConstantRunShowsTableInOrder :
    (mk 1 .stepHold 0 true .cw 4 0 0x4 [0x000#10]).Ok ∧ NoReset 1 (mk 1 .stepHold 0 true .cw 4 0 0x4 [0x000#10]) ∧
    ∀ n < 1, ∀ t, After n (mk 1 .stepHold 0 true .cw 4 0 0x4 [0x000#10]) t → t.expire = true → t.en = true ∧ t.dir = .cw := by
  refine ⟨by decide, by decide, fun n hn t ht _ => ?_⟩
  obtain rfl : n = 0 := by omega
  obtain rfl := after_zero_iff.1 ht
  decide
theorem wit_IndexMovesOnePosition : (wStop [0x000#10]).Ok ∧ (wStop [0x000#10]).rstIn = false := by decide
/-- With `HOLD_TICKS` = 1: stopped at the first edge, one idle dwell, started at the second. -/
theorem wit_ConsecutiveStepPatternsDifferInOneBit :
    (mk 1 .stepHold 0 false .cw 4 0 0x4 [0x104#10, 0x000#10]).Ok ∧
    (mk 1 .stepHold 0 false .cw 4 0 0x4 [0x104#10, 0x000#10]).expire = true ∧
    NoReset 2 (mk 1 .stepHold 0 false .cw 4 0 0x4 [0x104#10, 0x000#10]) ∧
    After 2 (mk 1 .stepHold 0 false .cw 4 0 0x4 [0x104#10, 0x000#10]) (mk 1 .stepHold 0 true .cw 5 0 0xC []) ∧
    ∀ k < 1, ∀ u, After (k + 1) (mk 1 .stepHold 0 false .cw 4 0 0x4 [0x104#10, 0x000#10]) u → u.phase = .idleHold := by
  refine ⟨by decide, by decide, by decide, eq_next_of_got (by decide), fun k hk u hu => ?_⟩
  obtain rfl : k = 0 := by omega
  have h : runEdges 1 (mk 1 .stepHold 0 false .cw 4 0 0x4 [0x104#10, 0x000#10]) =
      .next (mk 1 .idleHold 0 true .cw 5 0 0x0 [0x000#10]) := eq_next_of_got (by decide)
  cases h.symm.trans hu
  rfl
theorem wit_BurstIsInvisible :
    (wStep []).Ok ∧ (mk 3 .stepHold 2 true .ccw 0 5 0x1 []).Ok ∧ EqUpToBurst (wStep []) (mk 3 .stepHold 2 true .ccw 0 5 0x1 []) :=
  ⟨by decide, by decide, by unfold EqUpToBurst; decide⟩
theorem wit_CountersStayInBounds_hold : (wHold []).Ok ∧ (wHold []).expire = false := by decide
theorem wit_CountersStayInBounds_burst : (mk 3 .stepHold 2 true .cw 1 4098 0x3 []).Ok ∧ (mk 3 .stepHold 2 true .cw 1 4098 0x3 []).last = false := by
  decide
theorem wit_PhaseTransferGraph_hold : (wHold [0x000#10]).Ok ∧ (wHold [0x000#10]).rstIn = false ∧ (wHold [0x000#10]).expire = false := by
  decide
theorem wit_PhaseTransferGraph_expiry : (wIdle [0x000#10]).Ok ∧ (wIdle [0x000#10]).rstIn = false ∧ (wIdle [0x000#10]).expire = true := by
  decide
theorem wit_FirstStartAfterReset :
    (testCfg 2).Legal ∧ (testCfg 2).ClockOk ∧ [0x104#10, 0x000#10].length = (testCfg 2).holdTicks ∧
    (∀ w ∈ [0x104#10, 0x000#10], inputRst w = false) ∧
    (eventsEffect (([0x104#10, 0x000#10].take 1).map inputEvent) (false, .cw)).1 = true := by decide
theorem wit_EventActsAtNextExpiry_hold : (wHold [0x104#10]).Ok ∧ (wHold [0x104#10]).rstIn = false ∧ (wHold [0x104#10]).expire = false := by
  decide
theorem wit_EventActsAtNextExpiry_expiry :
    (mk 1 .stepHold 0 true .cw 4 0 0x4 [0x108#10, 0x000#10]).Ok ∧ (mk 1 .stepHold 0 true .cw 4 0 0x4 [0x108#10, 0x000#10]).rstIn = false ∧
    step (mk 1 .stepHold 0 true .cw 4 0 0x4 [0x108#10, 0x000#10]) = .next (mk 1 .stepHold 0 false .cw 5 1 0xC [0x000#10]) ∧
    NoReset (mk 1 .stepHold 0 false .cw 5 1 0xC [0x000#10]).toExpiry (mk 1 .stepHold 0 false .cw 5 1 0xC [0x000#10]) :=
  ⟨by decide, by decide, eq_next_of_got (by decide), by decide⟩
/-- A disabled dwell, enabled at its second edge; `en` is still 1 at the expiry. -/
theorem wit_StartLatency :
    (mk 3 .idleHold 1 false .cw 4 0 0x0 [0x104#10, 0x000#10]).Ok ∧
    (mk 3 .idleHold 1 false .cw 4 0 0x0 [0x104#10, 0x000#10]).rstIn = false ∧
    (mk 3 .idleHold 1 false .cw 4 0 0x0 [0x104#10, 0x000#10]).evtOp = .evtEnable ∧
    step (mk 3 .idleHold 1 false .cw 4 0 0x0 [0x104#10, 0x000#10]) = .next (mk 3 .idleHold 2 true .cw 4 0 0x0 [0x000#10]) ∧
    NoReset (mk 3 .idleHold 2 true .cw 4 0 0x0 [0x000#10]).toExpiry (mk 3 .idleHold 2 true .cw 4 0 0x0 [0x000#10]) ∧
    After 0 (mk 3 .idleHold 2 true .cw 4 0 0x0 [0x000#10]) (mk 3 .idleHold 2 true .cw 4 0 0x0 [0x000#10]) :=
  ⟨by decide, by decide, by decide, eq_next_of_got (by decide), by decide, rfl⟩
/-- An enable inside a step hold that has not expired: it cancels an earlier disable. -/
theorem wit_StartLatency_step :
    (mk 3 .stepHold 1 false .cw 4 0 0x4 [0x104#10, 0x000#10]).Ok ∧
    (mk 3 .stepHold 1 false .cw 4 0 0x4 [0x104#10, 0x000#10]).evtOp = .evtEnable ∧
    (mk 3 .stepHold 1 false .cw 4 0 0x4 [0x104#10, 0x000#10]).expire = false ∧
    step (mk 3 .stepHold 1 false .cw 4 0 0x4 [0x104#10, 0x000#10]) = .next (mk 3 .stepHold 2 true .cw 4 0 0x4 [0x000#10]) :=
  ⟨by decide, by decide, by decide, eq_next_of_got (by decide)⟩
/-- Vector T3: a disable one edge before the expiry. -/
theorem wit_StopLatency :
    (mk 3 .stepHold 1 true .cw 0 0 0x1 [0x108#10, 0x000#10]).Ok ∧
    (mk 3 .stepHold 1 true .cw 0 0 0x1 [0x108#10, 0x000#10]).rstIn = false ∧
    (mk 3 .stepHold 1 true .cw 0 0 0x1 [0x108#10, 0x000#10]).evtOp = .evtDisable ∧
    step (mk 3 .stepHold 1 true .cw 0 0 0x1 [0x108#10, 0x000#10]) = .next (mk 3 .stepHold 2 false .cw 0 0 0x1 [0x000#10]) ∧
    NoReset (mk 3 .stepHold 2 false .cw 0 0 0x1 [0x000#10]).toExpiry (mk 3 .stepHold 2 false .cw 0 0 0x1 [0x000#10]) :=
  ⟨by decide, by decide, by decide, eq_next_of_got (by decide), by decide⟩
theorem wit_DirActsAtStepExpiryOnly_idle : (wIdle [0x000#10]).Ok ∧ (wIdle [0x000#10]).rstIn = false ∧ (wIdle [0x000#10]).expire = true ∧
    (wIdle [0x000#10]).phase = .idleHold := by decide
theorem wit_DirActsAtStepExpiryOnly_step : (wStop [0x000#10]).Ok ∧ (wStop [0x000#10]).rstIn = false ∧ (wStop [0x000#10]).expire = true ∧
    (wStop [0x000#10]).phase = .stepHold := by decide
theorem wit_HeldEventCountsEachEdge :
    (wHold [0x110#10, 0x110#10, 0x110#10]).Ok ∧
    (wHold [0x110#10, 0x110#10, 0x110#10]).stimulus = List.replicate 3 (inputWord false 0x110#9) ++ [] ∧
    decodeEvent 0x110#9 = .evtToggleDir := by decide
theorem wit_FlagsFollowEventsAlone : (wStep [0x108#10, 0x104#10]).Ok ∧ NoReset 2 (wStep [0x108#10, 0x104#10]) := by decide
theorem wit_ProgramSuppliesItsInputs : (wStep []).Ok ∧ 0 < [0x108#10].length ∧ (wStep []).cfg.Legal ∧ (wStep []).cfg.ClockOk := by decide
theorem wit_PlacedWordIsSelected_event : 0x1FF < 512 ∧ State.reset.Ok := by decide
theorem wit_PlacedWordIsSelected_selector : 0b11111 < 32 ∧ State.reset.Ok ∧ 2 ≤ State.reset.cfg.holdTicks ∧ (31 < 16 → 31 % 2 = 0) := by decide

end Sys2Proof.Tests
end

/-! ## 00_scope.md: the two operations of an edge, the edge itself, and where it is refused -/

namespace Sys2Proof

open Machine

/-! ### The event operations write the flags alone -/

/-- The values an event operation gives `en` and `dir` (R131 to R136), tied to `exec` by `exec_event`. -/
def Instr.eventFlags (i : Instr) (en : Bool) (dir : Dir) : Bool × Dir :=
  match i with
  | .evtEnable => (true, dir)
  | .evtDisable => (false, dir)
  | .evtToggleDir => (en, toggled dir)
  | _ => (en, dir)

theorem Instr.eventFlags_en {i : Instr} (h₁ : i ≠ .evtEnable) (h₂ : i ≠ .evtDisable) (en : Bool) (dir : Dir) :
    (i.eventFlags en dir).1 = en := by
  unfold eventFlags; split <;> trivial

theorem Instr.eventFlags_dir {i : Instr} (h : i ≠ .evtToggleDir) (en : Bool) (dir : Dir) :
    (i.eventFlags en dir).2 = dir := by
  unfold eventFlags; split <;> trivial

@[simp] theorem isEvent_decodeEvent (w : EventWord) : (decodeEvent w).isEvent = true := by
  unfold decodeEvent; split_ifs <;> rfl

@[simp] theorem isEvent_decodeSelector (w : Selector) : (decodeSelector w).isEvent = false := by
  unfold decodeSelector decodeFields; split <;> rfl

theorem eventFlags_decodeEvent (w : EventWord) (en : Bool) (dir : Dir) :
    (decodeEvent w).eventFlags en dir = eventEffect w en dir := by
  unfold eventEffect; cases decodeEvent w <;> rfl

namespace Machine

/-- Both flags of the event process (R10, R37) replaced. -/
def State.setFlags (s : State) (f : Bool × Dir) : State := { s with en := f.1, dir := f.2 }

/-- Every event operation completes, and writes the flags alone (R130). -/
theorem exec_event {e : Instr} (he : e.isEvent = true) (s : State) :
    exec e s = .next (s.setFlags (e.eventFlags s.en s.dir)) := by
  cases e with
  | evtNone | evtEnable | evtDisable | evtToggleDir | evtReserved | evtIgnore => rfl
  | seqHold | seqIdleRepoll | seqStart | seqStepCw | seqStepCcw | seqStopCw | seqStopCcw => cases he

/-! ### The sequencer operations complete and leave the flags alone -/

/-- Every sequencer operation completes, and keeps the flags, the configuration and the inputs (R10, R37, R100). -/
theorem exec_sequencer {q : Instr} (hq : q.isEvent = false) (s : State) :
    ∃ t, exec q s = .next t ∧ t.en = s.en ∧ t.dir = s.dir ∧ t.cfg = s.cfg ∧ t.stimulus = s.stimulus ∧
      t.freeCount = s.freeCount := by
  cases q with
  | evtNone | evtEnable | evtDisable | evtToggleDir | evtReserved | evtIgnore => cases hq
  | seqHold | seqIdleRepoll | seqStart | seqStepCw | seqStepCcw | seqStopCw | seqStopCcw =>
    exact ⟨_, rfl, rfl, rfl, rfl, rfl, rfl⟩

/-- A sequencer operation reads neither flag: under other flags it writes the same (R9). -/
theorem exec_sequencer_setFlags {q : Instr} (hq : q.isEvent = false) {s t : State} (h : exec q s = .next t)
    (f : Bool × Dir) : exec q (s.setFlags f) = .next (t.setFlags f) := by
  cases q with
  | evtNone | evtEnable | evtDisable | evtToggleDir | evtReserved | evtIgnore => cases hq
  | seqHold | seqIdleRepoll | seqStart | seqStepCw | seqStepCcw | seqStopCw | seqStopCcw => cases h; rfl

/-- Every operation completes in every state (R150). -/
theorem exec_completes (i : Instr) (s : State) : ∃ t, exec i s = .next t := by
  cases hi : i.isEvent with
  | true => exact ⟨_, exec_event hi s⟩
  | false =>
    obtain ⟨t, ht, -⟩ := exec_sequencer hi s
    exact ⟨t, ht⟩

theorem State.memRead_congr {s t : State} (h : t.cfg = s.cfg) (j : StepIndex) : t.memRead j = s.memRead j := by
  rw [State.memRead, State.memRead, h]

/-! ### What each sequencer operation writes -/

@[simp] theorem exec_seqHold (p e d l : Bool) (s : State) :
    exec (.seqHold p e d l) s = .next (s.setHoldCnt (s.holdCnt + 1)) := rfl

@[simp] theorem exec_seqIdleRepoll (d l : Bool) (s : State) :
    exec (.seqIdleRepoll d l) s = .next { s with holdCnt := 0, phase := .idleHold, burst := 0#13, coil := 0#4 } :=
  congrArg Host.Outcome.next (s.beginHold_eq _ _ _)

@[simp] theorem exec_seqStart (d l : Bool) (s : State) :
    exec (.seqStart d l) s =
      .next { s with holdCnt := 0, phase := .stepHold, burst := 0#13, coil := s.memRead s.idx } :=
  congrArg Host.Outcome.next (s.beginHold_eq _ _ _)

@[simp] theorem exec_seqStepCw (l : Bool) (s : State) :
    exec (.seqStepCw l) s =
      .next { s with
        holdCnt := 0, phase := .stepHold, burst := s.nextBurst, idx := adv s.idx .cw,
        coil := s.memRead (adv s.idx .cw) } :=
  congrArg Host.Outcome.next (s.stepRun_eq .cw)

@[simp] theorem exec_seqStepCcw (l : Bool) (s : State) :
    exec (.seqStepCcw l) s =
      .next { s with
        holdCnt := 0, phase := .stepHold, burst := s.nextBurst, idx := adv s.idx .ccw,
        coil := s.memRead (adv s.idx .ccw) } :=
  congrArg Host.Outcome.next (s.stepRun_eq .ccw)

@[simp] theorem exec_seqStopCw (l : Bool) (s : State) :
    exec (.seqStopCw l) s =
      .next { s with holdCnt := 0, phase := .idleHold, burst := 0#13, idx := adv s.idx .cw, coil := 0#4 } :=
  congrArg Host.Outcome.next (s.stopRun_eq .cw)

@[simp] theorem exec_seqStopCcw (l : Bool) (s : State) :
    exec (.seqStopCcw l) s =
      .next { s with holdCnt := 0, phase := .idleHold, burst := 0#13, idx := adv s.idx .ccw, coil := 0#4 } :=
  congrArg Host.Outcome.next (s.stopRun_eq .ccw)

/-! ### The sequencer operation an edge selects -/

@[simp] theorem State.expire_consumeInput (s : State) : s.consumeInput.expire = s.expire := by
  simp [State.expire]

@[simp] theorem State.seqOp_consumeInput (s : State) : s.consumeInput.seqOp = s.seqOp := by
  simp [State.seqOp_eq, State.last]

/-- At an expiry edge the selected operation writes the registers of R104 to R109. -/
theorem exec_seqOp_of_expire {s : State} (h : s.expire = true) : exec s.seqOp s = .next s.afterExpiry := by
  rw [State.seqOp_eq, h]
  cases hp : s.phase <;> cases he : s.en
  case idleHold.false | idleHold.true => simp [phaseBit, decodeFields, State.afterExpiry, hp, he]
  case stepHold.false | stepHold.true =>
    cases hd : s.dir <;> simp [phaseBit, dirBit, decodeFields, State.afterExpiry, hp, he, hd]

/-- At any other edge it is SEQ_HOLD, whose increment fits the counter (R103, R117). -/
theorem exec_seqOp_of_not_expire {s : State} (hs : s.Legal) (h : s.expire = false) :
    exec s.seqOp s = .next { s with holdCnt := s.holdCnt + 1 } := by
  obtain ⟨hcnt, -⟩ := hs
  have hne : s.holdCnt ≠ s.cfg.holdTicks - 1 := by simpa [State.expire] using h
  calc exec s.seqOp s = .next (s.setHoldCnt (s.holdCnt + 1)) := by rw [State.seqOp_eq, h, decodeFields, exec_seqHold]
    _ = .next { s with holdCnt := s.holdCnt + 1 } := by rw [State.setHoldCnt_of_lt (by omega)]

/-! ### The answer of an edge, by the branches of `clockEdge` -/

theorem step_of_illegal_cfg {s : State} (h : ¬ s.cfg.Legal) : step s = .refused .illegalConfiguration := if_pos h

theorem step_of_bad_clock {s : State} (hc : s.cfg.Legal) (h : ¬ s.cfg.ClockOk) : step s = .refused .clockTooFast := by
  rw [step, clockEdge, if_neg (not_not_intro hc), if_pos h]

theorem step_of_rst {s : State} (hc : s.cfg.Legal) (hk : s.cfg.ClockOk) (hr : s.rstIn = true) :
    step s = .next s.consumeInput.applyReset := by
  rw [step, clockEdge, if_neg (not_not_intro hc), if_neg (not_not_intro hk), if_pos hr]

theorem step_of_illegal_state {s : State} (hc : s.cfg.Legal) (hk : s.cfg.ClockOk) (hr : s.rstIn = false)
    (h : ¬ s.Legal) : step s = .refused .illegalState := by
  rw [step, clockEdge, if_neg (not_not_intro hc), if_neg (not_not_intro hk), if_neg (by simp [hr]), if_pos h]

theorem step_of_ok {s : State} (h : s.Ok) (hr : s.rstIn = false) :
    step s = s.consumeInput.operate s.seqOp s.evtOp := by
  obtain ⟨hc, hk, hs⟩ := h
  rw [step, clockEdge, if_neg (not_not_intro hc), if_neg (not_not_intro hk), if_neg (by simp [hr]),
    if_neg (not_not_intro hs)]

theorem operate_completes (s : State) (q e : Instr) : ∃ t, s.operate q e = .next t := by
  obtain ⟨u, hu⟩ := exec_completes q s
  obtain ⟨t, ht⟩ := exec_completes e u
  exact ⟨t, andThen_next_iff.2 ⟨u, hu, ht⟩⟩

/-- The event operation of an edge, after a sequencer operation that kept the flags of `s`. -/
theorem exec_evtOp {s u : State} (hen : u.en = s.en) (hdir : u.dir = s.dir) :
    exec s.evtOp u = .next (u.setFlags (eventEffect (inputEvent s.nextInput) s.en s.dir)) := by
  rw [State.evtOp, exec_event (isEvent_decodeEvent _), eventFlags_decodeEvent, hen, hdir]

/-- The registers after the sequencer operation of an edge, the flags as before it. -/
theorem exec_seqOp_consumeInput {s : State} (hs : s.Legal) :
    exec s.seqOp s.consumeInput =
      .next (if s.expire then s.consumeInput.afterExpiry else { s.consumeInput with holdCnt := s.holdCnt + 1 }) := by
  rw [← State.seqOp_consumeInput]
  cases h : s.expire with
  | true => exact exec_seqOp_of_expire (by simpa using h)
  | false =>
    have hs' : s.consumeInput.Legal := by simpa [State.Legal] using hs
    simpa using exec_seqOp_of_not_expire hs' (by simpa using h)

/-! ### The statements -/

/-- Settles O8: an event operation writes the flags alone, and a sequencer operation neither writes nor reads them. -/
theorem operationsOfAnEdgeCommute : Obligations.OperationsOfAnEdgeCommute := by
  intro q e s hq he
  obtain ⟨t, ht, hen, hdir, -⟩ := exec_sequencer hq s
  calc andThen (exec q s) (exec e) = exec e t := by rw [ht, andThen_next]
    _ = .next (t.setFlags (e.eventFlags s.en s.dir)) := by rw [exec_event he, hen, hdir]
    _ = exec q (s.setFlags (e.eventFlags s.en s.dir)) := (exec_sequencer_setFlags hq ht _).symm
    _ = andThen (exec e s) (exec q) := by rw [exec_event he, andThen_next]

/-- Settles O9, by the sequencer operation's registers and then the event's flags. -/
theorem edgeInClosedForm : Obligations.EdgeInClosedForm := by
  intro s hok hr
  have ⟨_, _, hs⟩ := hok
  obtain ⟨u, hu, hen, hdir, -⟩ := exec_sequencer (q := s.seqOp) (isEvent_decodeSelector _) s.consumeInput
  rw [step_of_ok hok hr, State.operate, hu, andThen_next,
    exec_evtOp (hen.trans s.consumeInput_en) (hdir.trans s.consumeInput_dir)]
  rw [exec_seqOp_consumeInput hs] at hu
  cases hu
  rfl

/-- Settles O16: the table's 3-bit indices are the numbers below 8, and an edge tests the configuration first. -/
theorem illegalConfigurationRefused : Obligations.IllegalConfigurationRefused := by
  refine ⟨fun c => and_congr_right fun _ => ⟨fun h i hi => ?_, fun h i => ?_⟩, fun s => step_of_illegal_cfg⟩
  · simpa [patternAt, Nat.mod_eq_of_lt hi] using h (BitVec.ofNat 3 i)
  · simpa [patternAt] using h i.toNat i.isLt

/-- Settles O17, by the branches of an edge: the operations complete, so the three tests alone refuse. -/
theorem refusalsAreTheNamedOnes : Obligations.RefusalsAreTheNamedOnes := by
  refine ⟨fun s hc h => step_of_bad_clock hc ?_, fun s r h => ?_⟩
  · rintro ⟨hpos, hbound⟩
    simp only [holdUs] at hbound
    omega
  by_cases hc : s.cfg.Legal
  case neg => cases (step_of_illegal_cfg hc).symm.trans h; exact .inl ⟨rfl, hc⟩
  by_cases hk : s.cfg.ClockOk
  case neg => cases (step_of_bad_clock hc hk).symm.trans h; exact .inr (.inl ⟨rfl, hk⟩)
  cases hr : s.rstIn with
  | true => cases (step_of_rst hc hk hr).symm.trans h
  | false =>
    by_cases hs : s.Legal
    · obtain ⟨t, ht⟩ := operate_completes s.consumeInput s.seqOp s.evtOp
      cases (ht.symm.trans (step_of_ok ⟨hc, hk, hs⟩ hr).symm).trans h
    · cases (step_of_illegal_state hc hk hr hs).symm.trans h
      exact .inr (.inr ⟨rfl, rfl, hs⟩)

/-- Settles O24: EVT_TOGGLE_DIR keeps `en`, and every other event operation keeps `dir`. -/
theorem eventOperationFrame : Obligations.EventOperationFrame := by
  intro i s t hi h
  cases (exec_event hi s).symm.trans h
  refine ⟨?_, fun h₁ h₂ => Instr.eventFlags_en h₁ h₂ _ _, fun h₁ => Instr.eventFlags_dir h₁ _ _,
    State.memRead_congr rfl⟩
  by_cases ht : i = .evtToggleDir
  · subst ht; exact .inr rfl
  · left
    simp [State.setFlags, Instr.eventFlags_dir ht]

/-- Settles O33: the shared frame, and what SEQ_HOLD, SEQ_IDLE_REPOLL and SEQ_START write. -/
theorem sequencerOperationFrame : Obligations.SequencerOperationFrame := by
  intro i s hi
  obtain ⟨t, ht, hen, hdir, hcfg, hstim, hfree⟩ := exec_sequencer hi s
  refine ⟨t, ht, hen, hdir, hcfg, hstim, hfree, State.memRead_congr hcfg, ?_, ?_⟩
  · rintro p e d l rfl
    cases ht; rfl
  · rintro ⟨d, l, rfl | rfl⟩ <;> cases ht <;> rfl

end Machine

end Sys2Proof

/-! ## 10_state.md: the outputs, the reset state, and legality as an invariant -/

namespace Sys2Proof.Machine

/-! ### The named values of the one-bit registers -/

@[simp] theorem dirBit_eq_true_iff (d : Dir) : dirBit d = true ↔ d = .ccw := by cases d <;> decide

@[simp] theorem phaseBit_eq_true_iff (p : Phase) : phaseBit p = true ↔ p = .stepHold := by cases p <;> decide

@[simp] theorem ofBool_eq_one_iff (b : Bool) : BitVec.ofBool b = 1#1 ↔ b = true :=
  BitVec.ofBool_eq_iff_eq (b' := true)

/-! ### Which states are legal -/

/-- The first cycle of an idle dwell, whatever `en`, `dir` and `idx` are (R25 to R28). -/
theorem State.legal_of_idleHold {s : State} (hcnt : s.holdCnt = 0) (hphase : s.phase = .idleHold)
    (hburst : s.burst = 0#13) (hcoil : s.coil = 0#4) : s.Legal := by
  simp [State.Legal, hcnt, hphase, hburst, hcoil]

/-- The first cycle of a step hold. -/
theorem State.legal_of_stepHold {s : State} (hcnt : s.holdCnt = 0) (hphase : s.phase = .stepHold)
    (hburst : s.burst.toNat ≤ burstLen - 1) (hcoil : s.coil = s.memRead s.idx) : s.Legal := by
  refine ⟨by omega, hburst, fun h => ?_, fun _ => hcoil⟩
  cases hphase.symm.trans h

theorem State.legal_resetWith (c : Config) : (State.resetWith c).Legal := State.legal_of_idleHold rfl rfl rfl rfl

theorem State.legal_applyReset (s : State) : s.applyReset.Legal := State.legal_of_idleHold rfl rfl rfl rfl

@[simp] theorem State.legal_consumeInput (s : State) : s.consumeInput.Legal ↔ s.Legal := by
  simp [State.Legal]

/-- Legality asks nothing of the flags (R31). -/
@[simp] theorem State.legal_setFlags (s : State) (f : Bool × Dir) : (s.setFlags f).Legal ↔ s.Legal := Iff.rfl

/-! ### The operations keep legality -/

/-- Each of the four expiries begins a hold with the burst and the pattern that R31 asks of its kind. -/
theorem State.legal_afterExpiry {s : State} (hs : s.Legal) : s.afterExpiry.Legal := by
  obtain ⟨-, hburst, -, -⟩ := hs
  unfold State.afterExpiry
  split
  case h_1 | h_4 => exact State.legal_of_idleHold rfl rfl rfl rfl
  case h_2 => exact State.legal_of_stepHold rfl rfl (Nat.zero_le _) rfl
  case h_3 => exact State.legal_of_stepHold rfl rfl (State.nextBurst_le hburst) rfl

/-- A hold that has not expired has room for one more cycle. -/
theorem State.legal_holdCnt_succ {s : State} (hs : s.Legal) (h : s.expire = false) :
    { s with holdCnt := s.holdCnt + 1 }.Legal := by
  obtain ⟨hcnt, hrest⟩ := hs
  have hne : s.holdCnt ≠ s.cfg.holdTicks - 1 := by simpa [State.expire] using h
  exact ⟨by dsimp only; omega, hrest⟩

/-- The sequencer operation that a legal state selects gives a legal state. -/
theorem exec_seqOp_legal {s : State} (hs : s.Legal) : ∃ t, exec s.seqOp s = .next t ∧ t.Legal := by
  cases h : s.expire with
  | true => exact ⟨_, exec_seqOp_of_expire h, State.legal_afterExpiry hs⟩
  | false => exact ⟨_, exec_seqOp_of_not_expire hs h, State.legal_holdCnt_succ hs h⟩

/-- Every event operation gives a legal state, since it writes the flags alone. -/
theorem exec_event_legal {e : Instr} {s : State} (he : e.isEvent = true) (hs : s.Legal) :
    ∃ t, exec e s = .next t ∧ t.Legal :=
  ⟨_, exec_event he s, (s.legal_setFlags _).2 hs⟩

/-! ### An edge keeps legality and the configuration -/

/-- An edge that answers a state answers a legal one: it was a reset, or it ran two operations that keep legality. -/
theorem step_legal {s t : State} (h : step s = .next t) : t.Legal := by
  obtain ⟨-, -, ⟨-, rfl⟩ | ⟨-, hs, u, hu, ht⟩⟩ := step_cases h
  · exact State.legal_applyReset _
  · obtain ⟨u', hu', hlegal⟩ := exec_seqOp_legal (s.legal_consumeInput.2 hs)
    cases hu.symm.trans (s.seqOp_consumeInput ▸ hu')
    obtain ⟨t', ht', hlegal'⟩ := exec_event_legal (isEvent_decodeEvent _) hlegal
    cases ht.symm.trans ht'
    exact hlegal'

/-- No edge changes the configuration (R30, R52). -/
theorem step_cfg {s t : State} (h : step s = .next t) : t.cfg = s.cfg := by
  obtain ⟨-, -, ⟨-, rfl⟩ | ⟨-, -, u, hu, ht⟩⟩ := step_cases h
  · exact s.consumeInput_cfg
  · obtain ⟨u', hu', -, -, hcfg, -⟩ := exec_sequencer (q := s.seqOp) (isEvent_decodeSelector _) s.consumeInput
    cases hu.symm.trans hu'
    cases ht.symm.trans (exec_event (isEvent_decodeEvent _) u)
    exact hcfg.trans s.consumeInput_cfg

/-- `Ok` is an invariant of the edge. -/
theorem step_ok {s t : State} (hs : s.Ok) (h : step s = .next t) : t.Ok := by
  obtain ⟨hc, hk, -⟩ := hs
  rw [← step_cfg h] at hc hk
  exact ⟨hc, hk, step_legal h⟩

/-! ### The statements -/

/-- Settles O13, by what an edge that answers a state did: a reset, or the two operations. -/
theorem stepKeepsLegality : Obligations.StepKeepsLegality :=
  fun _ _ hs h => ⟨step_ok hs h, step_cfg h⟩

/-- Settles O14: the definition, reset, the selected sequencer operation, the event operations, and the refusal. -/
theorem operationsKeepLegalStates : Obligations.OperationsKeepLegalStates :=
  ⟨fun _ => Iff.rfl, State.legal_resetWith, fun _ _ => exec_seqOp_legal,
    fun _ _ => exec_event_legal, fun _ => step_of_illegal_state⟩

/-- Settles O11: each output is a register or its bit, and `aux` is a constant. -/
theorem outputsShowRegisters : Obligations.OutputsShowRegisters := by
  intro s
  have hdir := (ofBool_eq_one_iff (dirBit s.dir)).trans (dirBit_eq_true_iff s.dir)
  have hphase := (ofBool_eq_one_iff (phaseBit s.phase)).trans (phaseBit_eq_true_iff s.phase)
  exact ⟨fun _ _ => rfl, rfl, ofBool_eq_one_iff s.en, hdir, rfl, hphase, fun _ _ => rfl⟩

/-- Settles O12: the reset values are those of the first cycle of an idle dwell. -/
theorem resetStateIsLegal : Obligations.ResetStateIsLegal := by
  have hdefault : Config.default.Legal ∧ Config.default.ClockOk := by decide
  have hok (c : Config) (hc : c.Legal) (hk : c.ClockOk) : (State.resetWith c).Ok := ⟨hc, hk, State.legal_resetWith c⟩
  exact ⟨hok _ hdefault.1 hdefault.2, rfl, fun c hc hk => ⟨hok c hc hk, rfl, rfl⟩⟩

end Sys2Proof.Machine

/-! ## 20_memory.md: the read-only table, the port merge, and COIL_MAP -/

namespace Sys2Proof

open Machine

/-- The operation loads a table entry into `coil` (R51). -/
def Instr.readsTable : Instr → Bool
  | .seqStart _ _ | .seqStepCw _ | .seqStepCcw _ => true
  | _ => false

/-- An operation reads the table exactly when it is one of the three of R51. -/
theorem Instr.readsTable_iff (i : Instr) :
    i.readsTable = true ↔ (∃ d l, i = .seqStart d l) ∨ (∃ l, i = .seqStepCw l) ∨ (∃ l, i = .seqStepCcw l) := by
  cases i <;> simp [readsTable]

namespace Machine

/-! ### Operations and edges under another configuration -/

/-- No operation changes the configuration (R30, R52). -/
theorem exec_cfg {i : Instr} {s t : State} (h : exec i s = .next t) : t.cfg = s.cfg := by
  cases hi : i.isEvent with
  | true => cases (exec_event hi s).symm.trans h; rfl
  | false =>
    obtain ⟨t', ht', -, -, hcfg, -⟩ := exec_sequencer hi s
    cases ht'.symm.trans h
    exact hcfg

/-- The same registers and inputs under the configuration `c`. -/
def State.setCfg (s : State) (c : Config) : State := { s with cfg := c }

/-- Of the configuration an operation reads `HOLD_TICKS` at most, and the table if it is one of the three of R51: it
does the same under any configuration that agrees on these. -/
theorem exec_setCfg {i : Instr} {s t : State} {c : Config} (hticks : c.holdTicks = s.cfg.holdTicks)
    (htable : i.readsTable = true → c.stepPattern = s.cfg.stepPattern) (h : exec i s = .next t) :
    exec i (s.setCfg c) = .next (t.setCfg c) := by
  cases i with
  | evtNone | evtEnable | evtDisable | evtToggleDir | evtReserved | evtIgnore => cases h; rfl
  | seqHold => cases h; simp [State.setHoldCnt, State.setCfg, hticks]
  | seqIdleRepoll | seqStopCw | seqStopCcw =>
    simp only [exec_seqIdleRepoll, exec_seqStopCw, exec_seqStopCcw] at h ⊢
    cases h; rfl
  | seqStart | seqStepCw | seqStepCcw =>
    have hread (j : StepIndex) : (s.setCfg c).memRead j = s.memRead j := congrArg (patternAt · j) (htable rfl)
    simp only [exec_seqStart, exec_seqStepCw, exec_seqStepCcw, hread] at h ⊢
    cases h; rfl

theorem State.consumeInput_setCfg (s : State) (c : Config) :
    (s.setCfg c).consumeInput = s.consumeInput.setCfg c := by
  unfold consumeInput setCfg
  cases s.stimulus <;> rfl

/-- The same configuration but for `COIL_MAP` (R56). -/
def withCoilMap (c : Config) (m : Vector (Fin 4) 4) : Config := { c with coilMap := m }

/-- An operation does the same under another `COIL_MAP`, since it reads no part of the map. -/
theorem exec_withCoilMap {i : Instr} {s t : State} (m : Vector (Fin 4) 4) (h : exec i s = .next t) :
    exec i (s.setCfg (withCoilMap s.cfg m)) = .next (t.setCfg (withCoilMap t.cfg m)) := by
  rw [exec_cfg h]
  exact exec_setCfg rfl (fun _ => rfl) h

/-- The two operations of an edge do the same under another `COIL_MAP`. -/
theorem operate_withCoilMap (s : State) (q e : Instr) (m : Vector (Fin 4) 4) :
    (s.setCfg (withCoilMap s.cfg m)).operate q e =
      andThen (s.operate q e) (fun t => .next (t.setCfg (withCoilMap t.cfg m))) := by
  obtain ⟨u, hu⟩ := exec_completes q s
  obtain ⟨t, ht⟩ := exec_completes e u
  simp only [State.operate, hu, exec_withCoilMap m hu, ht, exec_withCoilMap m ht, andThen_next]

/-! ### The statements -/

/-- Settles O18: an operation other than the three reads no more of the configuration than `HOLD_TICKS`, and neither
an operation nor an edge writes the configuration. -/
theorem tableReadByThreeOperations : Obligations.TableReadByThreeOperations := by
  refine ⟨fun _ _ => rfl, fun s d l => ?_, fun i s t p hstart hcw hccw h => ?_,
    fun _ _ _ h => State.memRead_congr (exec_cfg h), fun _ _ h => congrArg Config.stepPattern (step_cfg h)⟩
  · exact ⟨_, _, _, exec_seqStart d l s, rfl, exec_seqStepCw l s, rfl, exec_seqStepCcw l s, rfl⟩
  · have hreads : ¬ i.readsTable = true := by simp [Instr.readsTable_iff, hstart, hcw, hccw]
    rw [exec_cfg h]
    exact exec_setCfg rfl (absurd · hreads) h

/-- Settles O19: the port shifted right and left again has zeros in bits 3..0, and `coil` has no bit above them. -/
theorem portMergeKeepsOtherBits : Obligations.PortMergeKeepsOtherBits := by
  intro w port coil i hi
  have hport : (port >>> 4 <<< 4).getLsbD i = (!decide (i < 4) && port.getLsbD i) := by
    by_cases h : i < 4
    · simp [h]
    · simp [h, hi, Nat.add_sub_cancel' (Nat.le_of_not_lt h)]
  have hcoil : (coil.setWidth w).getLsbD i = coil.getLsbD i := by simp [hi]
  rw [mergePort, BitVec.getLsbD_or, hport, hcoil]
  by_cases h : i < 4
  · simp [h]
  · simp [h, BitVec.getLsbD_of_ge coil i (Nat.le_of_not_lt h)]

/-- Settles O20, by the branches of an edge: none of its tests reads the map, and neither does what it does. -/
theorem coilMapHasNoEffect : Obligations.CoilMapHasNoEffect := by
  intro s m
  change step (s.setCfg (withCoilMap s.cfg m)) =
    andThen (step s) (fun t => .next (t.setCfg (withCoilMap t.cfg m)))
  by_cases hc : s.cfg.Legal
  case neg => rw [step_of_illegal_cfg hc]; exact step_of_illegal_cfg hc
  by_cases hk : s.cfg.ClockOk
  case neg => rw [step_of_bad_clock hc hk]; exact step_of_bad_clock hc hk
  cases hr : s.rstIn with
  | true =>
    rw [step_of_rst hc hk hr, andThen_next, State.applyReset_cfg, State.consumeInput_cfg]
    calc step (s.setCfg (withCoilMap s.cfg m))
      _ = .next (s.setCfg (withCoilMap s.cfg m)).consumeInput.applyReset := step_of_rst hc hk hr
      _ = .next (s.consumeInput.applyReset.setCfg (withCoilMap s.cfg m)) := by rw [State.consumeInput_setCfg]; rfl
  | false =>
    by_cases hs : s.Legal
    case neg => rw [step_of_illegal_state hc hk hr hs]; exact step_of_illegal_state hc hk hr hs
    rw [step_of_ok ⟨hc, hk, hs⟩ hr, ← operate_withCoilMap, State.consumeInput_cfg, ← State.consumeInput_setCfg]
    exact step_of_ok ⟨hc, hk, hs⟩ hr

end Machine

end Sys2Proof

/-! ## 30_encoding.md: the encoded words, the stimulus programs, and how both reach an edge -/

namespace Sys2Proof

open Machine

/-! ### The words and the operations -/

/-- A mask of EVT_IGNORE is well formed when it is none of the four codes (R136). -/
theorem Instr.wf_evtIgnore_iff (m : Byte) :
    (Instr.evtIgnore m).wf = true ↔ m ≠ codeBtn0 ∧ m ≠ codeBtn1 ∧ m ≠ codeBtn2 ∧ m ≠ codeBtn3 := by
  simp [Instr.wf, buttonCodes]

theorem decodeEvent_eventWord_false (m : Byte) : decodeEvent (eventWord false m) = .evtNone m := by
  simp [decodeEvent]

theorem decodeEvent_eventWord_true_of_wf {m : Byte} (h : (Instr.evtIgnore m).wf = true) :
    decodeEvent (eventWord true m) = .evtIgnore m := by
  obtain ⟨h₀, h₁, h₂, h₃⟩ := (Instr.wf_evtIgnore_iff m).1 h
  simp [decodeEvent, h₀, h₁, h₂, h₃]

/-- The row of an operation gives it back from its word, operands included (R73, R79). -/
theorem decodeWord_encode {i : Instr} (h : i.wf = true) : decodeWord (encode i) = i := by
  cases i with
  | evtNone m => exact decodeEvent_eventWord_false m
  | evtEnable | evtDisable | evtToggleDir | evtReserved => rfl
  | evtIgnore m => exact decodeEvent_eventWord_true_of_wf h
  | seqHold | seqIdleRepoll | seqStart | seqStepCw | seqStepCcw | seqStopCw | seqStopCcw =>
    exact decodeSelector_selectorWord ..

/-- The rows cover every event word: EVT_NONE, the four codes, and the default row (R73). -/
theorem exists_encode_eq_event (w : EventWord) : ∃ i : Instr, i.wf = true ∧ encode i = .event w := by
  rw [← eventWord_fields w]
  generalize eventMask w = m
  cases eventValid w with
  | false => exact ⟨.evtNone m, rfl, rfl⟩
  | true =>
    by_cases h : (Instr.evtIgnore m).wf = true
    · exact ⟨.evtIgnore m, h, rfl⟩
    · obtain rfl | rfl | rfl | rfl : m = codeBtn0 ∨ m = codeBtn1 ∨ m = codeBtn2 ∨ m = codeBtn3 := by
        rw [Instr.wf_evtIgnore_iff] at h
        tauto
      · exact ⟨.evtEnable, rfl, rfl⟩
      · exact ⟨.evtDisable, rfl, rfl⟩
      · exact ⟨.evtToggleDir, rfl, rfl⟩
      · exact ⟨.evtReserved, rfl, rfl⟩

/-- The rows cover every selector, by the branches of the decode table (R79). -/
theorem exists_encode_eq_seqsel (w : Selector) : ∃ i : Instr, i.wf = true ∧ encode i = .seqsel w := by
  refine ⟨decodeSelector w, ?_, ?_⟩
  · unfold decodeSelector decodeFields
    split <;> rfl
  · have h (p x e d l : Bool) : encode (decodeFields p x e d l) = .seqsel (selectorWord p x e d l) := by
      unfold decodeFields
      split <;> rfl
    rw [decodeSelector, h, selectorWord_fields]

/-- Every word of either format is some well-formed operation's (R76). -/
theorem exists_encode_eq (w : Encoded) : ∃ i : Instr, i.wf = true ∧ encode i = w := by
  cases w with
  | event w => exact exists_encode_eq_event w
  | seqsel w => exact exists_encode_eq_seqsel w

theorem wf_decodeWord (w : Encoded) : (decodeWord w).wf = true := by
  obtain ⟨i, hi, rfl⟩ := exists_encode_eq w
  rwa [decodeWord_encode hi]

theorem encode_decodeWord (w : Encoded) : encode (decodeWord w) = w := by
  obtain ⟨i, hi, rfl⟩ := exists_encode_eq w
  rw [decodeWord_encode hi]

/-- Settles O2: `encode` has `decodeWord` as its left inverse, and reaches every word. -/
theorem decodeInvertsEncode : Obligations.DecodeInvertsEncode :=
  ⟨fun _ => decodeWord_encode, fun w => ⟨wf_decodeWord w, encode_decodeWord w⟩⟩

/-! ### The rows of the opcode table -/

/-- The word of an operation matches the operation's row, whichever row it is (R70). -/
theorem rowMatches_encode {i : Instr} (h : i.wf = true) : rowMatches (tableRow i) (encode i) = true := by
  cases i with
  | evtNone => exact Laws.RowEncoding.evtNone _ h
  | evtEnable => exact Laws.RowEncoding.evtEnable h
  | evtDisable => exact Laws.RowEncoding.evtDisable h
  | evtToggleDir => exact Laws.RowEncoding.evtToggleDir h
  | evtReserved => exact Laws.RowEncoding.evtReserved h
  | evtIgnore => exact Laws.RowEncoding.evtIgnore _ h
  | seqHold => exact Laws.RowEncoding.seqHold _ _ _ _ h
  | seqIdleRepoll => exact Laws.RowEncoding.seqIdleRepoll _ _ h
  | seqStart => exact Laws.RowEncoding.seqStart _ _ h
  | seqStepCw => exact Laws.RowEncoding.seqStepCw _ h
  | seqStepCcw => exact Laws.RowEncoding.seqStepCcw _ h
  | seqStopCw => exact Laws.RowEncoding.seqStopCw _ h
  | seqStopCcw => exact Laws.RowEncoding.seqStopCcw _ h

/-- The mask of the rows EVT_NONE and EVT_IGNORE keeps the bit `V` alone (R71). -/
theorem toNat_and_0x100 (w : EventWord) : w.toNat &&& 0x100 = (eventValid w).toNat * 0x100 :=
  Nat.and_two_pow w.toNat 8

/-- The mask of a code's row keeps all nine bits. -/
theorem toNat_and_0x1FF (w : EventWord) : w.toNat &&& 0x1FF = w.toNat :=
  Nat.and_two_pow_sub_one_of_lt_two_pow w.isLt

/-- A word that matches a row of all nine bits is the row's pattern, and so has its operation. -/
theorem tableRow_decodeEvent_of_and_0x1FF {w v : EventWord} (h : (w.toNat &&& 0x1FF == v.toNat) = true) :
    tableRow (decodeEvent v) = tableRow (decodeEvent w) := by
  rw [toNat_and_0x1FF, beq_iff_eq, BitVec.toNat_inj] at h
  rw [h]

theorem rowMatches_evtNone (m : Byte) (w : EventWord) :
    rowMatches (tableRow (.evtNone m)) (.event w) = !eventValid w := by
  change (w.toNat &&& 0x100 == 0x000) = _
  rw [toNat_and_0x100]
  cases eventValid w <;> rfl

theorem rowMatches_evtIgnore (m : Byte) (w : EventWord) :
    rowMatches (tableRow (.evtIgnore m)) (.event w) = eventValid w := by
  change (w.toNat &&& 0x100 == 0x100) = _
  rw [toNat_and_0x100]
  cases eventValid w <;> rfl

/-- Apart from the default row, an event word matches the row of its own operation only. -/
theorem tableRow_eq_of_rowMatches_event {i : Instr} {w : EventWord} (h : rowMatches (tableRow i) (.event w) = true) :
    tableRow i = tableRow (decodeEvent w) ∨ ∃ m, i = .evtIgnore m := by
  cases i with
  | evtIgnore m => exact .inr ⟨m, rfl⟩
  | evtNone m =>
    left
    rw [rowMatches_evtNone] at h
    rw [decodeEvent, if_pos (by simpa using h)]
    rfl
  | evtEnable => exact .inl (tableRow_decodeEvent_of_and_0x1FF (v := 0x104#9) h)
  | evtDisable => exact .inl (tableRow_decodeEvent_of_and_0x1FF (v := 0x108#9) h)
  | evtToggleDir => exact .inl (tableRow_decodeEvent_of_and_0x1FF (v := 0x110#9) h)
  | evtReserved => exact .inl (tableRow_decodeEvent_of_and_0x1FF (v := 0x120#9) h)
  | seqHold | seqIdleRepoll | seqStart | seqStepCw | seqStepCcw | seqStopCw | seqStopCcw => cases h

/-- A selector matches the row of its own operation only: the row's mask and pattern fix the bits it is chosen by. -/
theorem tableRow_eq_of_rowMatches_seqsel {i : Instr} {p x e d l : Bool}
    (h : rowMatches (tableRow i) (.seqsel (selectorWord p x e d l)) = true) :
    tableRow i = tableRow (decodeFields p x e d l) := by
  cases i with
  | evtNone | evtEnable | evtDisable | evtToggleDir | evtReserved | evtIgnore => cases h
  | seqHold =>
    obtain rfl : x = false := by rw [tableRow] at h; revert p x e d l; decide
    rfl
  | seqIdleRepoll =>
    obtain ⟨rfl, rfl, rfl⟩ : x = true ∧ p = false ∧ e = false := by rw [tableRow] at h; revert p x e d l; decide
    rfl
  | seqStart =>
    obtain ⟨rfl, rfl, rfl⟩ : x = true ∧ p = false ∧ e = true := by rw [tableRow] at h; revert p x e d l; decide
    rfl
  | seqStepCw =>
    obtain ⟨rfl, rfl, rfl, rfl⟩ : x = true ∧ p = true ∧ e = true ∧ d = false := by
      rw [tableRow] at h; revert p x e d l; decide
    rfl
  | seqStepCcw =>
    obtain ⟨rfl, rfl, rfl, rfl⟩ : x = true ∧ p = true ∧ e = true ∧ d = true := by
      rw [tableRow] at h; revert p x e d l; decide
    rfl
  | seqStopCw =>
    obtain ⟨rfl, rfl, rfl, rfl⟩ : x = true ∧ p = true ∧ e = false ∧ d = false := by
      rw [tableRow] at h; revert p x e d l; decide
    rfl
  | seqStopCcw =>
    obtain ⟨rfl, rfl, rfl, rfl⟩ : x = true ∧ p = true ∧ e = false ∧ d = true := by
      rw [tableRow] at h; revert p x e d l; decide
    rfl

/-- Settles O3: a word is its operation's, whose row it matches, and the masks show which other rows it can match. -/
theorem rowsSelectOneOperation : Obligations.RowsSelectOneOperation := by
  refine ⟨fun w => ?_, fun w i h => ?_, fun _ _ => tableRow_eq_of_rowMatches_event,
    fun w m => rowMatches_evtIgnore m w⟩
  · simpa only [encode_decodeWord] using rowMatches_encode (wf_decodeWord w)
  · rw [← selectorWord_fields w] at h
    exact tableRow_eq_of_rowMatches_seqsel h

/-! ### The event decode table -/

/-- An event word with `V` = 1 selects the default row exactly when its mask is none of the codes. -/
theorem decodeEvent_eq_evtIgnore_iff (m : Byte) :
    decodeEvent (eventWord true m) = .evtIgnore m ↔ (Instr.evtIgnore m).wf = true :=
  ⟨fun h => h ▸ wf_decodeWord (.event (eventWord true m)), decodeEvent_eventWord_true_of_wf⟩

/-- A mask is outside EVT_IGNORE when it is one of the four codes, so there are four such masks. -/
theorem length_filter_range_codes :
    ((List.range 256).filter fun n => decide (BitVec.ofNat 8 n ∈ buttonCodes)).length = 4 := by
  have hperm : ((List.range 256).filter fun n => decide (BitVec.ofNat 8 n ∈ buttonCodes)).Perm
      (buttonCodes.map BitVec.toNat) := by
    refine (List.perm_ext_iff_of_nodup (List.nodup_range.filter _) (by decide)).2 fun n => ?_
    rw [List.mem_filter, List.mem_range, decide_eq_true_iff, List.mem_map]
    constructor
    · rintro ⟨hn, hc⟩
      exact ⟨_, hc, Nat.mod_eq_of_lt hn⟩
    · rintro ⟨c, hc, rfl⟩
      exact ⟨c.isLt, by rwa [BitVec.ofNat_toNat, BitVec.setWidth_eq]⟩
  rw [hperm.length_eq]
  rfl

/-- The other 252 masks select the default row. -/
theorem length_filter_range_evtIgnore :
    ((List.range 256).filter fun n =>
      decodeEvent (eventWord true (BitVec.ofNat 8 n)) = .evtIgnore (BitVec.ofNat 8 n)).length = 252 := by
  have hsplit := List.length_eq_length_filter_add (l := List.range 256) fun n =>
    decide (BitVec.ofNat 8 n ∈ buttonCodes)
  rw [length_filter_range_codes, List.length_range] at hsplit
  have hignore (m : Byte) : decide (decodeEvent (eventWord true m) = .evtIgnore m) = !decide (m ∈ buttonCodes) := by
    simp [decodeEvent_eq_evtIgnore_iff, Instr.wf]
  simp only [hignore]
  omega

/-- Settles O4, row by row; the default row has the masks that are none of the four codes. -/
theorem eventDecodeTable : Obligations.EventDecodeTable :=
  ⟨fun w => ⟨_, _, (eventWord_fields w).symm⟩, decodeEvent_eventWord_false, rfl, rfl, rfl, rfl,
    fun m h₀ h₁ h₂ h₃ => decodeEvent_eventWord_true_of_wf ((Instr.wf_evtIgnore_iff m).2 ⟨h₀, h₁, h₂, h₃⟩),
    length_filter_range_evtIgnore⟩

/-! ### The bits of the selector -/

section SelectorBits

variable (p x e d l : Bool)

theorem selectorWord_bit4 : (selectorWord p x e d l).getLsbD 4 = p := by revert p x e d l; decide
theorem selectorWord_bit3 : (selectorWord p x e d l).getLsbD 3 = x := by revert p x e d l; decide
theorem selectorWord_bit2 : (selectorWord p x e d l).getLsbD 2 = e := by revert p x e d l; decide
theorem selectorWord_bit1 : (selectorWord p x e d l).getLsbD 1 = d := by revert p x e d l; decide
theorem selectorWord_bit0 : (selectorWord p x e d l).getLsbD 0 = l := by revert p x e d l; decide

end SelectorBits

namespace Machine

/-- With `HOLD_TICKS` = 1 every cycle of a legal state is the last of its hold (R78). -/
theorem State.expire_of_one_tick {s : State} (hs : s.Legal) (h : s.cfg.holdTicks = 1) : s.expire = true := by
  obtain ⟨hcnt, -⟩ := hs
  rw [State.expire_iff]
  omega

/-- A legal idle dwell has `burst` = 0, which is not the last step of a run (R31, R79). -/
theorem State.last_of_idleHold {s : State} (hs : s.Legal) (h : s.phase = .idleHold) : s.last = false := by
  obtain ⟨-, -, hidle, -⟩ := hs
  rw [State.last, (hidle h).1]
  rfl

end Machine

/-- Settles O5: the selector's bits are its fields, and each pattern is a branch of the decode table. -/
theorem selectorDecodeTable : Obligations.SelectorDecodeTable := by
  refine ⟨fun s => ?_, fun s ⟨_, _, hs⟩ h => ?_, fun s ⟨_, _, hs⟩ h => ?_,
    fun w => ⟨_, _, _, _, _, (selectorWord_fields w).symm⟩, ?_⟩
  · rw [State.selector, selectorWord_bit4, selectorWord_bit3, selectorWord_bit2, selectorWord_bit1, selectorWord_bit0]
    exact ⟨phaseBit_eq_true_iff _, s.expire_iff, Iff.rfl, dirBit_eq_true_iff _, s.last_iff⟩
  · rw [State.selector, selectorWord_bit3]
    exact State.expire_of_one_tick hs h
  · rw [State.selector, selectorWord_bit0]
    exact State.last_of_idleHold hs h
  · simp [decodeFields]

/-! ### Numbers as words -/

/-- A number that fits the 9 bits of an event word is decoded as one, when it is given in two bytes (log 16). -/
theorem decodeTableWord_event {w : Nat} (h : w < 512) :
    decodeTableWord 16 w = some (decodeEvent (BitVec.ofNat 9 w)) := by
  simp [decodeTableWord, decode, h]

/-- A number that fits the 5 bits of a selector is decoded as one, when it is given in one byte (log 16). -/
theorem decodeTableWord_seqsel {w : Nat} (h : w < 32) :
    decodeTableWord 8 w = some (decodeSelector (BitVec.ofNat 5 w)) := by
  simp [decodeTableWord, decode, h]

/-- Settles O1: the written-out words are closed numbers, which the two decode tables decide. -/
theorem tableWordsDecode : Obligations.TableWordsDecode := by
  unfold Obligations.TableWordsDecode
  decide

namespace Machine

/-! ### The input words of a stimulus program -/

theorem toNat_eventWord (v : Bool) (m : Byte) : (eventWord v m).toNat = v.toNat * 0x100 + m.toNat := by
  rw [eventWord, BitVec.toNat_append, ← Nat.shiftLeft_add_eq_or_of_lt m.isLt, Nat.shiftLeft_eq, BitVec.toNat_ofBool]

theorem toNat_inputWord (r : Bool) (ev : EventWord) : (inputWord r ev).toNat = r.toNat * 0x200 + ev.toNat := by
  rw [inputWord, BitVec.toNat_append, ← Nat.shiftLeft_add_eq_or_of_lt ev.isLt, Nat.shiftLeft_eq, BitVec.toNat_ofBool]

/-- Settles O6, from the numbers of an event word and of a cycle's input word. -/
theorem stimulusWords : Obligations.StimulusWords := by
  refine ⟨fun m => ?_, fun n => ?_, rfl, fun m => ?_, rfl, rfl, rfl, rfl, rfl, fun h => ?_, fun p q => ?_⟩
  · simp [stmtWords, toNat_inputWord, toNat_eventWord]
  · simp [stmtWords, toNat_inputWord, toNat_eventWord]
  · simp [stmtWords]
  · simp [programWords, stmtWaithold, stmtWords]
  · exact List.flatMap_append

/-! ### The edge -/

/-- Settles O7: the words decode to well-formed operations, and operations complete. -/
theorem stepRunsDecodedOperations : Obligations.StepRunsDecodedOperations := by
  intro s hok hr
  obtain ⟨u, hu⟩ := exec_completes s.seqOp s.consumeInput
  obtain ⟨t, ht⟩ := exec_completes s.evtOp u
  refine ⟨rfl, wf_decodeWord (.seqsel s.selector), rfl, wf_decodeWord (.event (inputEvent s.nextInput)),
    u, t, hu, ht, ?_⟩
  rw [step_of_ok hok hr]
  exact andThen_next_iff.2 ⟨u, hu, ht⟩

/-! ### Runs of a stimulus program -/

/-- A legal machine answers every edge (R150). -/
theorem step_completes {s : State} (hok : s.Ok) : ∃ t, step s = .next t := by
  cases hr : s.rstIn with
  | true =>
    obtain ⟨hc, hk, -⟩ := hok
    exact ⟨_, step_of_rst hc hk hr⟩
  | false => exact step_of_ok hok hr ▸ operate_completes ..

/-- An edge takes its own input word off and leaves the other inputs alone (R60, R130). -/
theorem step_inputs {s t : State} (h : step s = .next t) :
    t.stimulus = s.consumeInput.stimulus ∧ t.freeCount = s.consumeInput.freeCount := by
  obtain ⟨-, -, ⟨-, rfl⟩ | ⟨-, -, u, hu, ht⟩⟩ := step_cases h
  · exact ⟨rfl, rfl⟩
  · obtain ⟨u', hu', -, -, -, hstim, hfree⟩ := exec_sequencer (q := s.seqOp) (isEvent_decodeSelector _) s.consumeInput
    cases hu.symm.trans hu'
    cases ht.symm.trans (exec_event (isEvent_decodeEvent _) u)
    exact ⟨hstim, hfree⟩

theorem State.consumeInput_of_cons {s : State} {w : InputWord} {ws : List InputWord} (h : s.stimulus = w :: ws) :
    s.consumeInput = { s with stimulus := ws } := by
  rw [State.consumeInput, h]

/-- A legal machine runs for as many edges as words are queued, and uses these words alone (R83). -/
theorem after_queued {p : List InputWord} {s : State} (hok : s.Ok) (hp : s.stimulus = p) :
    ∃ t, After p.length s t ∧ t.Ok ∧ t.stimulus = [] ∧ t.freeCount = s.freeCount := by
  induction p generalizing s with
  | nil => exact ⟨s, rfl, hok, hp, rfl⟩
  | cons w ws ih =>
    obtain ⟨u, hu⟩ := step_completes hok
    obtain ⟨hstim, hfree⟩ := step_inputs hu
    rw [State.consumeInput_of_cons hp] at hstim hfree
    obtain ⟨t, ht, htok, htstim, htfree⟩ := ih (step_ok hok hu) hstim
    exact ⟨t, after_succ_iff.2 ⟨u, hu, ht⟩, htok, htstim, htfree.trans hfree⟩

theorem State.inputAt_of_lt {s : State} {k : Nat} (h : k < s.stimulus.length) : s.inputAt k = s.stimulus[k] := by
  rw [State.inputAt, List.getElem?_eq_getElem h]

/-- A queued input word with `rst` = 1 resets any register state (R180). -/
theorem step_of_queued_reset {s : State} {ev : EventWord} {ws : List InputWord} (hc : s.cfg.Legal) (hk : s.cfg.ClockOk)
    (h : s.stimulus = inputWord true ev :: ws) :
    step s = .next { State.resetWith s.cfg with stimulus := ws, freeCount := s.freeCount } := by
  have hr : s.rstIn = true := by simp [State.rstIn, State.nextInput, h]
  rw [step_of_rst hc hk hr, State.consumeInput_of_cons h]
  rfl

/-- Settles O50, by induction on the queued words; the first edge of the second clause is a reset. -/
theorem programSuppliesItsInputs : Obligations.ProgramSuppliesItsInputs := by
  refine ⟨fun p s hok => ⟨fun k h => State.inputAt_of_lt h, ?_⟩, fun p s hc hk => ?_⟩
  · obtain ⟨t, ht, hrest⟩ := after_queued (s := { s with stimulus := p }) hok rfl
    exact ⟨t, ht, (core_run_eq _ _).trans ht, hrest⟩
  · have hreset := step_of_queued_reset (s := { s with stimulus := programWords [.reset] ++ p }) hc hk rfl
    change andThen (step _) _ = _
    rw [hreset]
    rfl

/-! ### Where a word is placed (log 5) -/

@[simp] theorem State.placeSelector_cfg (s : State) (sel : Selector) : (s.placeSelector sel).cfg = s.cfg := rfl
@[simp] theorem State.placeSelector_phase (s : State) (sel : Selector) :
    (s.placeSelector sel).phase = phaseOfBit (sel.getLsbD 4) := rfl
@[simp] theorem State.placeSelector_holdCnt (s : State) (sel : Selector) :
    (s.placeSelector sel).holdCnt =
      if sel.getLsbD 3 then s.cfg.holdTicks - 1 else if s.expire then 0 else s.holdCnt := rfl
@[simp] theorem State.placeSelector_en (s : State) (sel : Selector) : (s.placeSelector sel).en = sel.getLsbD 2 := rfl
@[simp] theorem State.placeSelector_dir (s : State) (sel : Selector) :
    (s.placeSelector sel).dir = dirOfBit (sel.getLsbD 1) := rfl
@[simp] theorem State.placeSelector_burst (s : State) (sel : Selector) :
    (s.placeSelector sel).burst =
      if sel.getLsbD 0 then 4099#13
      else if s.last || phaseOfBit (sel.getLsbD 4) == .idleHold then 0#13 else s.burst := rfl
@[simp] theorem State.placeSelector_coil (s : State) (sel : Selector) :
    (s.placeSelector sel).coil = if sel.getLsbD 4 then s.memRead s.idx else 0#4 := by
  rw [State.placeSelector]
  cases sel.getLsbD 4 <;> rfl

theorem State.nextInput_placeEvent (s : State) (ev : EventWord) : (s.placeEvent ev).nextInput = inputWord false ev := rfl

theorem State.nextInput_placeSelector (s : State) (sel : Selector) :
    (s.placeSelector sel).nextInput = inputWord false (eventWord false 0#8) := rfl

/-- A selector with `X` = 0 is placed in a count that has not expired; there is one when `HOLD_TICKS` >= 2 (R78). -/
theorem State.expire_placeSelector {s : State} (h : 2 ≤ s.cfg.holdTicks) (sel : Selector) :
    (s.placeSelector sel).expire = sel.getLsbD 3 := by
  rw [State.expire, State.placeSelector_holdCnt, State.placeSelector_cfg]
  cases sel.getLsbD 3 with
  | true => exact beq_self_eq_true _
  | false =>
    cases he : s.expire with
    | true => exact beq_false_of_ne (Nat.sub_pos_of_lt h).ne
    | false => exact he

/-- A selector with `L` = 0 is placed in a burst before its last step. -/
theorem State.last_placeSelector (s : State) (sel : Selector) : (s.placeSelector sel).last = sel.getLsbD 0 := by
  rw [State.last, State.placeSelector_burst]
  cases sel.getLsbD 0 with
  | true => rfl
  | false =>
    cases hl : s.last with
    | true => rfl
    | false =>
      cases phaseOfBit (sel.getLsbD 4) with
      | idleHold => rfl
      | stepHold => exact hl

/-- The placed registers give the placed selector (R77). -/
theorem State.selector_placeSelector {s : State} (h : 2 ≤ s.cfg.holdTicks) (sel : Selector) :
    (s.placeSelector sel).selector = sel := by
  rw [State.selector, State.placeSelector_phase, phaseBit_phaseOfBit, State.expire_placeSelector h,
    State.placeSelector_en, State.placeSelector_dir, dirBit_dirOfBit, State.last_placeSelector, selectorWord_fields]

/-- The placed registers are a legal state (R31), unless the selector has `P` = 0 with `L` = 1 (R79). -/
theorem State.legal_placeSelector {s : State} (hs : s.Legal) {sel : Selector}
    (hidle : sel.getLsbD 4 = false → sel.getLsbD 0 = false) : (s.placeSelector sel).Legal := by
  obtain ⟨hcnt, hburst, -, -⟩ := hs
  refine ⟨?_, ?_, fun hp => ?_, fun hp => ?_⟩
  · rw [State.placeSelector_holdCnt, State.placeSelector_cfg]
    split_ifs
    · exact le_rfl
    · exact Nat.zero_le _
    · exact hcnt
  · rw [State.placeSelector_burst]
    split_ifs
    · exact le_rfl
    · exact Nat.zero_le _
    · exact hburst
  · have h4 : sel.getLsbD 4 = false := (phaseBit_phaseOfBit _).symm.trans (congrArg phaseBit hp)
    rw [State.placeSelector_burst, State.placeSelector_coil, hidle h4, h4]
    simp [phaseOfBit]
  · have h4 : sel.getLsbD 4 = true := (phaseBit_phaseOfBit _).symm.trans (congrArg phaseBit hp)
    rw [State.placeSelector_coil, h4]
    rfl

/-- `P` = 0 with `L` = 0, for a selector given as a number. -/
theorem getLsbD_ofNat_idle {w : Nat} (hw : w < 32) (h : w < 16 → w % 2 = 0) :
    (BitVec.ofNat 5 w).getLsbD 4 = false → (BitVec.ofNat 5 w).getLsbD 0 = false := by
  revert w; decide

/-- Settles O51: an event word goes to the inputs alone, and a selector to the registers that give it back. -/
theorem placedWordIsSelected : Obligations.PlacedWordIsSelected := by
  refine ⟨fun s w hw hok => ?_, fun s w hw hok hticks hlow => ?_⟩
  · change (s.placeEvent _).Ok ∧ (s.placeEvent _).rstIn = _ ∧ _ = some (s.placeEvent _).evtOp ∧ _
    rw [State.rstIn, State.evtOp, State.nextInput_placeEvent, inputRst_inputWord, inputEvent_inputWord]
    exact ⟨hok, rfl, decodeTableWord_event hw, rfl, rfl⟩
  · change (s.placeSelector _).Ok ∧ (s.placeSelector _).rstIn = _ ∧ _ = some (s.placeSelector _).seqOp ∧
      (s.placeSelector _).evtOp = _
    obtain ⟨hc, hk, hs⟩ := hok
    rw [State.rstIn, State.evtOp, State.seqOp, State.nextInput_placeSelector, inputRst_inputWord,
      inputEvent_inputWord, State.selector_placeSelector hticks]
    exact ⟨⟨hc, hk, State.legal_placeSelector hs (getLsbD_ofNat_idle hw hlow)⟩, rfl, decodeTableWord_seqsel hw,
      decodeEvent_eventWord_false _⟩

end Machine

end Sys2Proof

/-! ## 40_sequencer.md: the sequencer operations, the hold timer, and the runs between expiry edges -/

namespace Sys2Proof

open Machine

/-- The decode table selects SEQ_HOLD exactly where `X` = 0 (R79). -/
theorem decodeFields_eq_seqHold_iff (p x e d l : Bool) :
    (∃ p' e' d' l', decodeFields p x e d l = .seqHold p' e' d' l') ↔ x = false := by
  revert p x e d l; decide

namespace Machine

/-! ### The advance function (R101) -/

theorem toNat_adv_cw (i : StepIndex) : (adv i .cw).toNat = (i.toNat + 1) % 8 := by
  simp [adv]

theorem toNat_adv_ccw (i : StepIndex) : (adv i .ccw).toNat = (i.toNat + 8 - 1) % 8 := by
  simp [adv]

@[simp] theorem adv_adv_toggled (i : StepIndex) (d : Dir) : adv (adv i d) (toggled d) = i := by
  cases d <;> simp [adv_cw, adv_ccw]

/-- Neighbours in a half-step table differ in one bit, in either direction (R53). -/
theorem popcount_xor_adv {t : Vector Pattern 8} (h : HalfStep t) (i : StepIndex) (d : Dir) :
    popcount (patternAt t i ^^^ patternAt t (adv i d)) = 1 := by
  cases d with
  | cw => rw [adv_cw]; exact h i
  | ccw =>
    have hprev := h (i - 1#3)
    rw [BitVec.sub_add_cancel] at hprev
    rw [adv_ccw, BitVec.xor_comm]
    exact hprev

/-! ### What the flags' write leaves alone -/

section SetFlags
variable (s : State) (f : Bool × Dir)

@[simp] theorem State.setFlags_cfg : (s.setFlags f).cfg = s.cfg := rfl
@[simp] theorem State.setFlags_en : (s.setFlags f).en = f.1 := rfl
@[simp] theorem State.setFlags_dir : (s.setFlags f).dir = f.2 := rfl
@[simp] theorem State.setFlags_idx : (s.setFlags f).idx = s.idx := rfl
@[simp] theorem State.setFlags_phase : (s.setFlags f).phase = s.phase := rfl
@[simp] theorem State.setFlags_holdCnt : (s.setFlags f).holdCnt = s.holdCnt := rfl
@[simp] theorem State.setFlags_burst : (s.setFlags f).burst = s.burst := rfl
@[simp] theorem State.setFlags_coil : (s.setFlags f).coil = s.coil := rfl

end SetFlags

/-! ### The registers an expiry leaves (R102, R104 to R109) -/

/-- The burst step by the value of `burst` (R106, R110). -/
theorem State.nextBurst_eq (s : State) : s.nextBurst = if s.burst = 4099#13 then 0#13 else s.burst + 1#13 := by
  simp only [State.nextBurst, State.last_iff]

/-- The index of the hold that an expiry begins: advanced where a step hold ends, kept where a dwell ends. -/
def State.nextIdx (s : State) : StepIndex :=
  match s.phase with
  | .idleHold => s.idx
  | .stepHold => adv s.idx s.dir

theorem State.nextIdx_of_stepHold {s : State} (h : s.phase = .stepHold) : s.nextIdx = adv s.idx s.dir := by
  rw [State.nextIdx, h]

@[simp] theorem State.nextIdx_consumeInput (s : State) : s.consumeInput.nextIdx = s.nextIdx := by
  simp [State.nextIdx]

@[simp] theorem State.afterExpiry_holdCnt (s : State) : s.afterExpiry.holdCnt = 0 := by
  unfold State.afterExpiry; split <;> rfl

@[simp] theorem State.afterExpiry_phase (s : State) : s.afterExpiry.phase = if s.en then .stepHold else .idleHold := by
  unfold State.afterExpiry; split <;> simp [*]

@[simp] theorem State.afterExpiry_idx (s : State) : s.afterExpiry.idx = s.nextIdx := by
  unfold State.afterExpiry State.nextIdx; split <;> simp [*]

/-- The enable multiplexer at the index of the next hold (R102). -/
@[simp] theorem State.afterExpiry_coil (s : State) : s.afterExpiry.coil = s.coilMux s.en s.nextIdx := by
  unfold State.afterExpiry State.nextIdx; split <;> simp [*]

/-- Only a step that follows a step keeps a count of the inner run (R106 to R109). -/
theorem State.afterExpiry_burst_of_disabled {s : State} (h : s.en = false) : s.afterExpiry.burst = 0#13 := by
  unfold State.afterExpiry; rw [h]; cases s.phase <;> rfl

/-- An expiry does not look at the count that made it one. -/
theorem State.afterExpiry_with_holdCnt (s : State) (n : Nat) : { s with holdCnt := n }.afterExpiry = s.afterExpiry := by
  unfold State.afterExpiry
  cases s.phase <;> cases s.en <;> rfl

/-! ### The two kinds of edge without reset (R103, R155) -/

/-- The flags after the event operation of the next edge. -/
def State.edgeFlags (s : State) : Bool × Dir := eventEffect (inputEvent s.nextInput) s.en s.dir

theorem step_of_not_expire {s : State} (hok : s.Ok) (hr : s.rstIn = false) (h : s.expire = false) :
    step s = .next ({ s.consumeInput with holdCnt := s.holdCnt + 1 }.setFlags s.edgeFlags) := by
  have hedge := edgeInClosedForm s hok hr
  rw [h] at hedge
  exact hedge

theorem step_of_expire {s : State} (hok : s.Ok) (hr : s.rstIn = false) (h : s.expire = true) :
    step s = .next (s.consumeInput.afterExpiry.setFlags s.edgeFlags) := by
  have hedge := edgeInClosedForm s hok hr
  rw [h] at hedge
  exact hedge

theorem State.expire_eq_false_iff (s : State) : s.expire = false ↔ s.holdCnt ≠ s.cfg.holdTicks - 1 := by
  rw [ne_eq, ← s.expire_iff, Bool.not_eq_true]

/-- A legal hold that has not expired has a cycle left (R103, R117). -/
theorem State.holdCnt_succ_le {s : State} (hs : s.Legal) (h : s.expire = false) :
    s.holdCnt + 1 ≤ s.cfg.holdTicks - 1 := by
  obtain ⟨hcnt, -⟩ := hs
  have := s.expire_eq_false_iff.1 h
  omega

/-- SEQ_HOLD is the operation exactly where the hold has not expired (R79, R103). -/
theorem State.seqOp_eq_seqHold_iff (s : State) :
    (∃ p e d l, s.seqOp = .seqHold p e d l) ↔ s.expire = false := by
  rw [s.seqOp_eq]
  exact decodeFields_eq_seqHold_iff ..

/-- A legal step hold shows the table's entry at the index (R31). -/
theorem State.coil_of_stepHold {s : State} (hs : s.Legal) (h : s.phase = .stepHold) : s.coil = s.memRead s.idx := by
  obtain ⟨-, -, -, hstep⟩ := hs
  exact hstep h

/-! ### The statements about one operation and one edge -/

/-- Settles O27, from the numbers of both advances and their sums of words. -/
theorem advanceIsModuloEight : Obligations.AdvanceIsModuloEight :=
  ⟨fun i => ⟨toNat_adv_cw i, toNat_adv_ccw i⟩, rfl, rfl, adv_adv_toggled⟩

/-- Settles O30: the decode rows, and the writes of the two operations that end a dwell. -/
theorem idleExpiryOperations : Obligations.IdleExpiryOperations :=
  ⟨fun _ _ => decodeSelector_selectorWord .., fun _ _ => decodeSelector_selectorWord ..,
    fun s d l => ⟨exec_seqIdleRepoll d l s, exec_seqStart d l s⟩⟩

/-- Settles O34: the operation reads `burst` for the burst step alone, which is 0 after the last step. -/
theorem innerRunReentryIsInvisible : Obligations.InnerRunReentryIsInvisible := by
  intro s l b h
  have hlast : s.nextBurst = 0#13 := by rw [s.nextBurst_eq, if_pos h]
  exact ⟨⟨_, _, exec_seqStepCw l _, exec_seqStepCw l _, hlast, rfl⟩,
    ⟨_, _, exec_seqStepCcw l _, exec_seqStepCcw l _, hlast, rfl⟩⟩

/-- Settles O28, by whether the edge is an expiry; at one, `coil` is the multiplexer's at the next hold's index. -/
theorem enableMultiplexer : Obligations.EnableMultiplexer := by
  intro s hok hr
  cases h : s.expire with
  | true =>
    refine ⟨_, step_of_expire hok hr h, ?_⟩
    cases hp : s.phase <;> simp [State.coilMux, State.nextIdx, hp]
  | false => exact ⟨_, step_of_not_expire hok hr h, s.consumeInput_coil⟩

/-- Settles O29: a legal count that has not expired is below `HOLD_TICKS` - 1, so the increment fits the counter. -/
theorem holdCountsOneCycle : Obligations.HoldCountsOneCycle := by
  refine ⟨fun _ _ _ _ => decodeSelector_selectorWord .., fun s ⟨_, _, hs⟩ h => ?_, fun s hok hr h => ?_,
    fun s ⟨_, _, hs⟩ h p e d l hop => ?_⟩
  · have hexp := s.expire_eq_false_iff.2 h
    have hle := s.holdCnt_succ_le hs hexp
    have hwidth := holdTicks_le_hcW s.cfg.holdTicks
    refine ⟨s.seqOp_eq_seqHold_iff.2 hexp, hle, ?_, fun p e d l => ?_⟩
    · rw [← hcW_eq_max_clog]
      omega
    · rw [exec_seqHold, State.setHoldCnt_of_lt (by omega)]
  · exact step_of_not_expire hok hr (s.expire_eq_false_iff.2 h)
  · have hexp := s.seqOp_eq_seqHold_iff.1 ⟨p, e, d, l, hop⟩
    rw [State.expire_of_one_tick hs h] at hexp
    cases hexp

/-- Settles O31: the writes of both operations, and the edge that ends a step hold while enabled. -/
theorem stepExpiryOperations : Obligations.StepExpiryOperations := by
  refine ⟨fun _ => decodeSelector_selectorWord .., fun _ => decodeSelector_selectorWord .., rfl, rfl, fun s l => ?_,
    fun s hok hr h hp he => ?_⟩
  · rw [← s.nextBurst_eq]
    exact ⟨exec_seqStepCw l s, exec_seqStepCcw l s⟩
  · have ⟨_, _, hs⟩ := hok
    refine ⟨State.coil_of_stepHold hs hp, _, step_of_expire hok hr h, ?_⟩
    simp [State.nextIdx_of_stepHold hp, he, State.edgeFlags]

/-- Settles O32: the writes of both operations, and the edge that ends a step hold after a disable. -/
theorem stopExpiryOperations : Obligations.StopExpiryOperations := by
  refine ⟨fun _ => decodeSelector_selectorWord .., fun _ => decodeSelector_selectorWord .., fun s l => ?_,
    fun s l d l' => ?_, fun s hok hr h hp he => ?_⟩
  · exact ⟨exec_seqStopCw l s, exec_seqStopCcw l s⟩
  · rw [exec_seqStopCw, exec_seqStopCcw, andThen_next, andThen_next]
    exact ⟨_, _, exec_seqStart d l' _, rfl, exec_seqStart d l' _, rfl⟩
  · refine ⟨_, step_of_expire hok hr h, ?_⟩
    simp [State.nextIdx_of_stepHold hp, he, State.edgeFlags, State.afterExpiry_burst_of_disabled]

/-- Settles O38: an expiry leaves the next hold's index, and any other edge keeps the index. -/
theorem indexMovesOnePosition : Obligations.IndexMovesOnePosition := by
  intro s hok hr
  cases h : s.expire with
  | true =>
    refine ⟨_, step_of_expire hok hr h, ?_⟩
    cases hp : s.phase <;> simp [State.nextIdx, hp]
  | false => exact ⟨_, step_of_not_expire hok hr h, s.consumeInput_idx⟩

/-- Settles O41: the sums stay in range where they are computed, and every edge leaves a legal state. -/
theorem countersStayInBounds : Obligations.CountersStayInBounds := by
  refine ⟨fun i => ⟨toNat_adv_cw i, toNat_adv_ccw i⟩, fun s ⟨_, _, hs⟩ => State.holdCnt_succ_le hs,
    fun s ⟨_, _, _, hburst, _⟩ h => ?_, fun s t hok hstep => ?_⟩
  · have hne : s.burst.toNat ≠ burstLen - 1 := by simpa [State.last] using h
    simp only [burstLen] at hburst hne
    refine ⟨?_, by omega⟩
    rw [BitVec.toNat_add, BitVec.toNat_ofNat]
    omega
  · obtain ⟨hcnt, hburst, -⟩ := step_legal hstep
    exact ⟨step_cfg hstep ▸ hcnt, hburst⟩

/-- Settles O42: `en` decides the phase an expiry leads to, and with `phase` and `dir` the operation. -/
theorem phaseTransferGraph : Obligations.PhaseTransferGraph := by
  intro s hok hr
  cases h : s.expire with
  | false =>
    refine ⟨_, step_of_not_expire hok hr h, fun _ => ⟨s.seqOp_eq_seqHold_iff.2 h, s.consumeInput_phase⟩, ?_⟩
    simp
  | true =>
    refine ⟨_, step_of_expire hok hr h, by simp, fun _ => ?_⟩
    rw [s.seqOp_eq, h]
    cases hp : s.phase <;> cases he : s.en
    case idleHold.false | idleHold.true => simp [he, phaseBit, decodeFields]
    case stepHold.false | stepHold.true => cases s.dir <;> simp [he, phaseBit, dirBit, decodeFields]

/-! ### Runs of edges, taken apart at any point -/

/-- A run of `m + n` edges is a run of `m` and a run of `n`. -/
theorem after_add_iff {m n : Nat} {s t : State} : After (m + n) s t ↔ ∃ u, After m s u ∧ After n u t := by
  induction m generalizing s with
  | zero => simp
  | succ m ih =>
    rw [Nat.succ_add, after_succ_iff]
    simp only [after_succ_iff, ih]
    exact ⟨fun ⟨u, hu, v, hv, ht⟩ => ⟨v, ⟨u, hu, hv⟩, ht⟩, fun ⟨v, ⟨u, hu, hv⟩, ht⟩ => ⟨u, hu, v, hv, ht⟩⟩

/-- A run of `n + 1` edges is a run of `n` and an edge. -/
theorem after_succ_right_iff {n : Nat} {s t : State} : After (n + 1) s t ↔ ∃ u, After n s u ∧ step u = .next t := by
  simp only [after_add_iff, after_succ_iff (n := 0), after_zero_iff, exists_eq_right]

theorem after_ok {n : Nat} {s t : State} (hok : s.Ok) (h : After n s t) : t.Ok := by
  induction n generalizing t with
  | zero => exact after_zero_iff.1 h ▸ hok
  | succ n ih =>
    obtain ⟨u, hu, ht⟩ := after_succ_right_iff.1 h
    exact step_ok (ih hu) ht

theorem after_cfg {n : Nat} {s t : State} (h : After n s t) : t.cfg = s.cfg := by
  induction n generalizing t with
  | zero => rw [after_zero_iff.1 h]
  | succ n ih =>
    obtain ⟨u, hu, ht⟩ := after_succ_right_iff.1 h
    exact (step_cfg ht).trans (ih hu)

theorem after_memRead {n : Nat} {s t : State} (h : After n s t) (i : StepIndex) : t.memRead i = s.memRead i :=
  State.memRead_congr (after_cfg h) i

/-- A run takes the inputs of its own edges off, and no others. -/
theorem after_inputAt {n : Nat} {s t : State} (h : After n s t) (k : Nat) : t.inputAt k = s.inputAt (n + k) := by
  induction n generalizing t k with
  | zero => rw [after_zero_iff.1 h, Nat.zero_add]
  | succ n ih =>
    obtain ⟨u, hu, ht⟩ := after_succ_right_iff.1 h
    obtain ⟨hstim, hfree⟩ := step_inputs ht
    rw [State.inputAt_congr hstim hfree, State.inputAt_consumeInput, ih hu, Nat.add_right_comm, Nat.add_assoc]

theorem after_nextInput {n : Nat} {s t : State} (h : After n s t) : t.nextInput = s.inputAt n :=
  t.nextInput_eq_inputAt.trans (after_inputAt h 0)

theorem after_rstIn {m n : Nat} {s t : State} (hr : NoReset n s) (hm : m < n) (h : After m s t) : t.rstIn = false := by
  rw [State.rstIn, after_nextInput h]
  exact hr m hm

theorem noReset_mono {m n : Nat} {s : State} (hmn : m ≤ n) (hr : NoReset n s) : NoReset m s :=
  fun k hk => hr k (hk.trans_le hmn)

theorem noReset_after {m n : Nat} {s t : State} (hr : NoReset (m + n) s) (h : After m s t) : NoReset n t :=
  fun k hk => after_inputAt h k ▸ hr (m + k) (Nat.add_lt_add_left hk m)

/-! ### The flags during a run without reset -/

/-- The flags after the event operations of the next `n` edges (R191). -/
def State.flagsAfter (s : State) (n : Nat) : Bool × Dir := eventsEffect (s.events n) (s.en, s.dir)

theorem eventsEffect_append_singleton (ws : List EventWord) (w : EventWord) (f : Bool × Dir) :
    eventsEffect (ws ++ [w]) f = eventEffect w (eventsEffect ws f).1 (eventsEffect ws f).2 := by
  induction ws generalizing f with
  | nil => rfl
  | cons v ws ih => exact ih _

theorem State.flagsAfter_succ (s : State) (n : Nat) :
    s.flagsAfter (n + 1) = eventEffect (inputEvent (s.inputAt n)) (s.flagsAfter n).1 (s.flagsAfter n).2 := by
  have hevents : s.events (n + 1) = s.events n ++ [inputEvent (s.inputAt n)] := by
    simp [State.events, List.range_succ]
  rw [State.flagsAfter, hevents, eventsEffect_append_singleton]
  rfl

/-! ### Inside a hold (R103, R111) -/

/-- The state `n` cycles later in the same hold: the count and the flags have moved on, and the inputs are used up. -/
def State.heldFor (s : State) (n : Nat) : State :=
  { (consumeN n s).setFlags (s.flagsAfter n) with holdCnt := s.holdCnt + n }

section HeldFor
variable (s : State) (n : Nat)

@[simp] theorem State.heldFor_cfg : (s.heldFor n).cfg = s.cfg := consumeN_cfg n s
@[simp] theorem State.heldFor_en : (s.heldFor n).en = (s.flagsAfter n).1 := rfl
@[simp] theorem State.heldFor_dir : (s.heldFor n).dir = (s.flagsAfter n).2 := rfl
@[simp] theorem State.heldFor_idx : (s.heldFor n).idx = s.idx := consumeN_idx n s
@[simp] theorem State.heldFor_phase : (s.heldFor n).phase = s.phase := consumeN_phase n s
@[simp] theorem State.heldFor_holdCnt : (s.heldFor n).holdCnt = s.holdCnt + n := rfl
@[simp] theorem State.heldFor_burst : (s.heldFor n).burst = s.burst := consumeN_burst n s
@[simp] theorem State.heldFor_coil : (s.heldFor n).coil = s.coil := consumeN_coil n s

/-- The inputs may be taken off one by one from either end. -/
theorem consumeN_succ_right : consumeN (n + 1) s = (consumeN n s).consumeInput := by
  induction n generalizing s with
  | zero => rfl
  | succ n ih => exact ih s.consumeInput

theorem State.consumeInput_heldFor :
    (s.heldFor n).consumeInput =
      { (consumeN (n + 1) s).setFlags (s.flagsAfter n) with holdCnt := s.holdCnt + n } := by
  rw [consumeN_succ_right, State.heldFor]
  unfold State.consumeInput State.setFlags
  cases (consumeN n s).stimulus <;> rfl

end HeldFor

/-- A legal hold has a cycle left, and at most `HOLD_TICKS`. -/
theorem State.toExpiry_pos {s : State} (hok : s.Ok) : 1 ≤ s.toExpiry := by
  obtain ⟨⟨hticks, -⟩, -, hcnt, -⟩ := hok
  rw [State.toExpiry]
  omega

/-- Of the cycles left in a hold, the last one is the expiry's. -/
theorem State.expire_heldFor_iff {s : State} {n : Nat} (hn : n < s.toExpiry) :
    (s.heldFor n).expire = true ↔ n + 1 = s.toExpiry := by
  rw [State.expire_iff, State.heldFor_cfg, State.heldFor_holdCnt]
  rw [State.toExpiry] at hn ⊢
  omega

/-- The flags after an edge of a hold are those of one event more. -/
theorem State.edgeFlags_heldFor {s : State} {n : Nat} (h : After n s (s.heldFor n)) :
    (s.heldFor n).edgeFlags = s.flagsAfter (n + 1) := by
  rw [State.edgeFlags, after_nextInput h, State.flagsAfter_succ, State.heldFor_en, State.heldFor_dir]

/-- Every edge before the expiry counts one cycle, by induction on the edges (R103, R111). -/
theorem after_heldFor {s : State} {n : Nat} (hok : s.Ok) (hr : NoReset n s) (hn : n < s.toExpiry) :
    After n s (s.heldFor n) := by
  induction n with
  | zero => rfl
  | succ n ih =>
    have hrun : After n s (s.heldFor n) := ih (noReset_mono n.le_succ hr) (by omega)
    have hexp : (s.heldFor n).expire = false := by
      rw [← Bool.not_eq_true, State.expire_heldFor_iff (by omega)]
      omega
    refine after_succ_right_iff.2 ⟨_, hrun, ?_⟩
    rw [step_of_not_expire (after_ok hok hrun) (after_rstIn hr n.lt_succ_self hrun) hexp,
      State.edgeFlags_heldFor hrun, State.consumeInput_heldFor]
    rfl

/-- The state in the last cycle of the hold. -/
def State.atExpiry (s : State) : State := s.heldFor (s.toExpiry - 1)

/-- The last cycle of a hold is reached, and the edge after it is the expiry (R111). -/
theorem after_atExpiry {s : State} (hok : s.Ok) (hr : NoReset s.toExpiry s) :
    After (s.toExpiry - 1) s s.atExpiry ∧ s.atExpiry.expire = true := by
  have hpos := State.toExpiry_pos hok
  exact ⟨after_heldFor hok (noReset_mono (by omega) hr) (by omega), (State.expire_heldFor_iff (by omega)).2 (by omega)⟩

/-- The expiry edge ends the hold on the registers of its last cycle (R104 to R109, R111). -/
theorem after_toExpiry {s : State} (hok : s.Ok) (hr : NoReset s.toExpiry s) :
    After s.toExpiry s (s.atExpiry.consumeInput.afterExpiry.setFlags (s.flagsAfter s.toExpiry)) := by
  obtain ⟨hrun, hexp⟩ := after_atExpiry hok hr
  have hpos := State.toExpiry_pos hok
  have hsucc : s.toExpiry - 1 + 1 = s.toExpiry := by omega
  have hrst : s.atExpiry.rstIn = false := after_rstIn hr (by omega) hrun
  have hflags : s.atExpiry.edgeFlags = s.flagsAfter s.toExpiry := hsucc ▸ State.edgeFlags_heldFor hrun
  have hedge := after_succ_right_iff.2 ⟨_, hrun, step_of_expire (after_ok hok hrun) hrst hexp⟩
  rwa [hsucc, hflags] at hedge

/-! ### The statements about one hold -/

/-- Settles O35, from the closed form of the states inside a hold and of the expiry that ends it. -/
theorem holdLastsExactlyHoldTicks : Obligations.HoldLastsExactlyHoldTicks := by
  intro s hok hr
  have ⟨_, ⟨_, hclock⟩, _⟩ := hok
  refine ⟨hclock, State.toExpiry_pos hok, Nat.sub_le .., fun h0 => ?_, fun j hj => ?_, _, after_toExpiry hok hr, ?_⟩
  · rw [State.toExpiry, h0, Nat.sub_zero]
  · exact ⟨s.heldFor j, after_heldFor hok (noReset_mono hj.le hr) hj, rfl, s.heldFor_phase j, s.heldFor_idx j,
      s.heldFor_burst j, s.heldFor_coil j, State.expire_heldFor_iff hj⟩
  · exact State.afterExpiry_holdCnt _

/-- Settles O36: the registers that the expiry reads are those of the start of the hold, but for the flags and the count. -/
theorem expiryToExpiryRefinement : Obligations.ExpiryToExpiryRefinement := by
  intro s hok hr
  have hpos := State.toExpiry_pos hok
  have hregs : s.atExpiry.consumeInput.afterExpiry =
      ((consumeN s.toExpiry s).setFlags (s.flagsAfter (s.toExpiry - 1))).afterExpiry := by
    rw [State.atExpiry, State.consumeInput_heldFor, State.afterExpiry_with_holdCnt, Nat.sub_add_cancel hpos]
  have hrun := after_toExpiry hok hr
  rw [hregs] at hrun
  exact hrun

/-! ### A run with constant direction (R112) -/

/-- At every expiry among the next `n` edges the machine is enabled and its direction is `d`. -/
def ConstantRun (n : Nat) (d : Dir) (s : State) : Prop :=
  ∀ m < n, ∀ t, After m s t → t.expire = true → t.en = true ∧ t.dir = d

theorem ConstantRun.mono {m n : Nat} {d : Dir} {s : State} (hmn : m ≤ n) (h : ConstantRun n d s) : ConstantRun m d s :=
  fun k hk => h k (hk.trans_le hmn)

theorem ConstantRun.after {m n : Nat} {d : Dir} {s t : State} (h : ConstantRun (m + n) d s) (ht : After m s t) :
    ConstantRun n d t :=
  fun k hk u hu => h (m + k) (Nat.add_lt_add_left hk m) u (after_add_iff.2 ⟨t, ht, hu⟩)

/-- Advances in one direction may be counted from either end. -/
theorem advN_succ_right (d : Dir) (k : Nat) (i : StepIndex) : advN d (k + 1) i = adv (advN d k i) d := by
  induction k generalizing i with
  | zero => rfl
  | succ k ih => exact ih (adv i d)

/-- The first cycle of a step hold at index `i`. -/
def State.BeginsStepHold (s : State) (i : StepIndex) : Prop := s.phase = .stepHold ∧ s.holdCnt = 0 ∧ s.idx = i

/-- A step hold that ends while enabled is followed by a step hold at the next index (R106, R107). -/
theorem after_step_hold {d : Dir} {i : StepIndex} {s : State} (hok : s.Ok) (hs : s.BeginsStepHold i)
    (hr : NoReset s.cfg.holdTicks s) (hrun : ConstantRun s.cfg.holdTicks d s) :
    ∃ t, After s.cfg.holdTicks s t ∧ t.BeginsStepHold (adv i d) := by
  obtain ⟨hp, h0, hi⟩ := hs
  have hlen : s.toExpiry = s.cfg.holdTicks := by rw [State.toExpiry, h0, Nat.sub_zero]
  rw [← hlen] at hr hrun ⊢
  have hpos := State.toExpiry_pos hok
  obtain ⟨hlast, hexp⟩ := after_atExpiry hok hr
  obtain ⟨hen, hdir⟩ := hrun _ (by omega) _ hlast hexp
  have hphase : s.atExpiry.phase = .stepHold := (s.heldFor_phase _).trans hp
  have hidx : s.atExpiry.idx = i := (s.heldFor_idx _).trans hi
  refine ⟨_, after_toExpiry hok hr, ?_⟩
  simp [State.BeginsStepHold, hen, State.nextIdx_of_stepHold hphase, hidx, hdir]

/-- After `k` holds of a constant run a step hold begins, `k` advances on; by induction on the holds. -/
theorem after_step_holds {k : Nat} {d : Dir} {i : StepIndex} {s : State} (hok : s.Ok) (hs : s.BeginsStepHold i)
    (hr : NoReset (k * s.cfg.holdTicks) s) (hrun : ConstantRun (k * s.cfg.holdTicks) d s) :
    ∃ t, After (k * s.cfg.holdTicks) s t ∧ t.BeginsStepHold (advN d k i) := by
  induction k with
  | zero => exact ⟨s, by simp, hs⟩
  | succ k ih =>
    rw [Nat.succ_mul] at hr hrun ⊢
    obtain ⟨t, ht, hbegin⟩ := ih (noReset_mono (Nat.le_add_right ..) hr) (hrun.mono (Nat.le_add_right ..))
    have hcfg := after_cfg ht
    obtain ⟨u, hu, hnext⟩ := after_step_hold (after_ok hok ht) hbegin
      (hcfg ▸ noReset_after hr ht) (hcfg ▸ hrun.after ht)
    rw [hcfg] at hu
    exact ⟨u, after_add_iff.2 ⟨t, ht, hu⟩, advN_succ_right d k i ▸ hnext⟩

/-- A step hold shows the table's entry at its index in each of its cycles (R111). -/
theorem after_within_step_hold {i : StepIndex} {j : Nat} {s : State} (hok : s.Ok) (hs : s.BeginsStepHold i)
    (hj : j < s.cfg.holdTicks) (hr : NoReset j s) :
    ∃ t, After j s t ∧ t.phase = .stepHold ∧ t.coil = s.memRead i := by
  obtain ⟨hp, h0, rfl⟩ := hs
  have ⟨_, _, hlegal⟩ := hok
  have hlt : j < s.toExpiry := by rwa [State.toExpiry, h0, Nat.sub_zero]
  exact ⟨_, after_heldFor hok hr hlt, (s.heldFor_phase j).trans hp,
    (s.heldFor_coil j).trans (State.coil_of_stepHold hlegal hp)⟩

/-- Settles O37: the holds before a cycle make the index, and the hold it is in shows the entry there. -/
theorem constantRunShowsTableInOrder : Obligations.ConstantRunShowsTableInOrder := by
  refine ⟨fun k d s hok hp h0 hr hrun => ?_, ?_, by decide⟩
  · change ConstantRun (k * s.cfg.holdTicks) d s at hrun
    have hs : s.BeginsStepHold s.idx := ⟨hp, h0, rfl⟩
    refine ⟨fun m hm j hj => ?_, ?_⟩
    · have hle : m * s.cfg.holdTicks + j ≤ k * s.cfg.holdTicks := by
        have hmul := Nat.mul_le_mul_right s.cfg.holdTicks hm
        rw [Nat.succ_mul] at hmul
        omega
      have hr' := noReset_mono hle hr
      obtain ⟨t, ht, hbegin⟩ := after_step_holds hok hs (noReset_mono (Nat.le_add_right ..) hr')
        (hrun.mono ((Nat.le_add_right ..).trans hle))
      obtain ⟨u, hu, hphase, hcoil⟩ := after_within_step_hold (after_ok hok ht) hbegin (after_cfg ht ▸ hj)
        (noReset_after hr' ht)
      exact ⟨u, after_add_iff.2 ⟨t, ht, hu⟩, hphase, hcoil.trans (after_memRead ht _)⟩
    · obtain ⟨t, ht, hphase, hcnt, hidx⟩ := after_step_holds hok hs hr hrun
      have ⟨_, _, hlegal⟩ := after_ok hok ht
      refine ⟨t, ht, hphase, hcnt, hidx, ?_⟩
      rw [State.coil_of_stepHold hlegal hphase, hidx, after_memRead ht]
  · intro i d
    revert i
    cases d <;> decide

/-! ### From one step hold to the next (R114, R115) -/

/-- Idle dwells keep the index, however many there are and whatever the events. -/
theorem after_idle_idx {n : Nat} {s t : State} (hok : s.Ok) (hr : NoReset n s) (h : After n s t)
    (hidle : ∀ k < n, ∀ u, After k s u → u.phase = .idleHold) : t.idx = s.idx := by
  induction n generalizing t with
  | zero => rw [after_zero_iff.1 h]
  | succ n ih =>
    obtain ⟨u, hu, ht⟩ := after_succ_right_iff.1 h
    have hkeep : u.idx = s.idx := ih (noReset_mono n.le_succ hr) hu fun k hk => hidle k (by omega)
    obtain ⟨t', ht', hidx⟩ := indexMovesOnePosition u (after_ok hok hu) (after_rstIn hr n.lt_succ_self hu)
    cases ht.symm.trans ht'
    simpa [hidle n n.lt_succ_self u hu, hkeep] using hidx

/-- Settles O39: the stop or the step advances the index once, and the dwells after it keep it. -/
theorem consecutiveStepPatternsDifferInOneBit : Obligations.ConsecutiveStepPatternsDifferInOneBit := by
  refine ⟨fun n s t hok hp hexp hr h hphase hidle => ?_, fun p => by simp, by decide⟩
  obtain ⟨u, hu, ht⟩ := after_succ_iff.1 h
  have hfirst : After 1 s u := after_succ_iff.2 ⟨u, hu, rfl⟩
  obtain ⟨u', hu', hmove⟩ := indexMovesOnePosition s hok (after_rstIn hr n.succ_pos rfl)
  cases hu.symm.trans hu'
  have hidx : t.idx = adv s.idx s.dir := by
    rw [after_idle_idx (step_ok hok hu) (noReset_after (Nat.add_comm n 1 ▸ hr) hfirst) ht
      fun k hk v hv => hidle k hk v (after_succ_iff.2 ⟨u, hu, hv⟩), hmove, hexp, hp]
    rfl
  have ⟨⟨_, hhalf⟩, _, hs⟩ := hok
  have ⟨_, _, hlegal⟩ := after_ok hok h
  rw [State.coil_of_stepHold hs hp, State.coil_of_stepHold hlegal hphase, after_memRead h, hidx]
  refine ⟨popcount_xor_adv hhalf s.idx s.dir, ?_⟩
  cases s.dir with
  | cw => exact .inl rfl
  | ccw => exact .inr rfl

/-! ### burst has no effect outside itself (R116) -/

theorem eqUpToBurst_iff {s t : State} : EqUpToBurst s t ↔ ∃ b, t = s.setBurst b := by
  constructor
  · intro h
    exact ⟨t.burst, (congrArg (State.setBurst · t.burst) h).symm⟩
  · rintro ⟨b, rfl⟩
    rfl

theorem State.consumeInput_setBurst (s : State) (b : BurstCount) :
    (s.setBurst b).consumeInput = s.consumeInput.setBurst b := by
  unfold State.consumeInput State.setBurst
  cases s.stimulus <;> rfl

/-- An expiry reads `burst` for the next `burst` alone. -/
theorem State.afterExpiry_setBurst (s : State) (b : BurstCount) :
    (s.setBurst b).afterExpiry = s.afterExpiry.setBurst (s.setBurst b).afterExpiry.burst := by
  unfold State.afterExpiry State.setBurst
  cases s.phase <;> cases s.en <;> rfl

/-- An edge of two legal machines that differ in `burst` alone leaves two that differ in `burst` alone. -/
theorem step_setBurst {s : State} {b : BurstCount} (hok : s.Ok) (hok' : (s.setBurst b).Ok) :
    ∃ t c, step s = .next t ∧ step (s.setBurst b) = .next (t.setBurst c) := by
  cases hr : s.rstIn with
  | true =>
    obtain ⟨hc, hk, -⟩ := hok
    refine ⟨_, 0#13, step_of_rst hc hk hr, ?_⟩
    rw [step_of_rst (s := s.setBurst b) hc hk hr, State.consumeInput_setBurst]
    rfl
  | false =>
    cases h : s.expire with
    | true =>
      refine ⟨_, (s.consumeInput.setBurst b).afterExpiry.burst, step_of_expire hok hr h, ?_⟩
      rw [step_of_expire hok' hr h, State.consumeInput_setBurst, State.afterExpiry_setBurst]
      rfl
    | false =>
      refine ⟨_, b, step_of_not_expire hok hr h, ?_⟩
      rw [step_of_not_expire hok' hr h, State.consumeInput_setBurst]
      rfl

/-- The same for any number of edges, under any inputs. -/
theorem after_setBurst {n : Nat} {s : State} {b : BurstCount} (hok : s.Ok) (hok' : (s.setBurst b).Ok) :
    ∃ t c, After n s t ∧ After n (s.setBurst b) (t.setBurst c) := by
  induction n generalizing s b with
  | zero => exact ⟨s, b, rfl, rfl⟩
  | succ n ih =>
    obtain ⟨u, c, hu, hu'⟩ := step_setBurst hok hok'
    obtain ⟨t, c', ht, ht'⟩ := ih (step_ok hok hu) (step_ok hok' hu')
    exact ⟨t, c', after_succ_iff.2 ⟨u, hu, ht⟩, after_succ_iff.2 ⟨_, hu', ht'⟩⟩

/-- No row of the sequencer decode table examines `L` (R79). -/
theorem tableRow_decodeFields (p x e d l l' : Bool) :
    tableRow (decodeFields p x e d l) = tableRow (decodeFields p x e d l') := by
  unfold decodeFields
  split <;> rfl

/-- Settles O40, by induction on the edges; no output shows `burst`. -/
theorem burstIsInvisible : Obligations.BurstIsInvisible := by
  refine ⟨fun n s s' hok hok' h => ?_, fun p x e d => ?_⟩
  · obtain ⟨b, rfl⟩ := eqUpToBurst_iff.1 h
    obtain ⟨t, c, ht, ht'⟩ := after_setBurst (n := n) hok hok'
    exact ⟨t, _, ht, ht', rfl, rfl⟩
  · rw [decodeSelector_selectorWord, decodeSelector_selectorWord]
    exact tableRow_decodeFields p x e d true false

end Machine

end Sys2Proof

/-! ## 41_dispatch.md: the event operations, and the flags over a sequence of event words -/

namespace Sys2Proof.Machine

/-! ### What each event operation writes -/

@[simp] theorem exec_evtNone (m : Byte) (s : State) : exec (.evtNone m) s = .next s := rfl
@[simp] theorem exec_evtEnable (s : State) : exec .evtEnable s = .next (s.setEn true) := rfl
@[simp] theorem exec_evtDisable (s : State) : exec .evtDisable s = .next (s.setEn false) := rfl
@[simp] theorem exec_evtToggleDir (s : State) : exec .evtToggleDir s = .next (s.setDir (toggled s.dir)) := rfl
@[simp] theorem exec_evtReserved (s : State) : exec .evtReserved s = .next s := rfl
@[simp] theorem exec_evtIgnore (m : Byte) (s : State) : exec (.evtIgnore m) s = .next s := rfl

/-- A second write of `en` replaces the first. -/
@[simp] theorem State.setEn_setEn (s : State) (v w : Bool) : (s.setEn v).setEn w = s.setEn w := rfl

@[simp] theorem State.setDir_setDir (s : State) (d e : Dir) : (s.setDir d).setDir e = s.setDir e := rfl

@[simp] theorem State.setDir_self (s : State) : s.setDir s.dir = s := rfl

@[simp] theorem toggled_toggled (d : Dir) : toggled (toggled d) = d := by cases d <;> rfl

theorem toggled_ne (d : Dir) : toggled d ≠ d := by cases d <;> decide

/-- Toggling twice restores every register (C1). -/
theorem toggle_toggle (s : State) : andThen (exec .evtToggleDir s) (exec .evtToggleDir) = .next s := by
  simp

/-! ### The flags over a sequence of event words (R137) -/

/-- An event word writes `en` exactly when it is EVT_ENABLE's or EVT_DISABLE's. -/
theorem eventEffect_en (w : EventWord) (en : Bool) (dir : Dir) :
    (eventEffect w en dir).1 =
      if decodeEvent w = .evtEnable ∨ decodeEvent w = .evtDisable then decide (decodeEvent w = .evtEnable) else en := by
  rw [← eventFlags_decodeEvent]
  cases decodeEvent w <;> rfl

/-- An event word writes `dir` exactly when it is EVT_TOGGLE_DIR's. -/
theorem eventEffect_dir (w : EventWord) (en : Bool) (dir : Dir) :
    (eventEffect w en dir).2 = if decodeEvent w = .evtToggleDir then toggled dir else dir := by
  rw [← eventFlags_decodeEvent]
  cases decodeEvent w <;> rfl

/-- `dir` is toggled by the parity of the toggles: by induction from the last word. -/
theorem eventsEffect_dir (ws : List EventWord) (f : Bool × Dir) :
    (eventsEffect ws f).2 =
      if (ws.filter fun w => decodeEvent w = .evtToggleDir).length % 2 = 0 then f.2 else toggled f.2 := by
  induction ws using List.reverseRecOn with
  | nil => rfl
  | append_singleton ws w ih =>
    rw [eventsEffect_append_singleton, eventEffect_dir, ih, List.filter_append, List.length_append]
    by_cases h : decodeEvent w = .evtToggleDir
    · rcases Nat.mod_two_eq_zero_or_one (ws.filter fun w => decodeEvent w = .evtToggleDir).length with hn | hn <;>
        simp [h, hn, Nat.add_mod]
    · simp [h]

/-- The last word that writes `en` decides it: by induction from the last word. -/
theorem eventsEffect_en (ws : List EventWord) (f : Bool × Dir) :
    (eventsEffect ws f).1 =
      match (ws.filter fun w => decodeEvent w = .evtEnable ∨ decodeEvent w = .evtDisable).getLast? with
      | some w => decide (decodeEvent w = .evtEnable)
      | none => f.1 := by
  induction ws using List.reverseRecOn with
  | nil => rfl
  | append_singleton ws w ih =>
    rw [eventsEffect_append_singleton, eventEffect_en, ih, List.filter_append]
    by_cases h : decodeEvent w = .evtEnable ∨ decodeEvent w = .evtDisable
    · rw [if_pos h, List.filter_singleton, decide_eq_true h, cond_true, List.getLast?_concat]
    · rw [if_neg h, List.filter_singleton, decide_eq_false h, cond_false, List.append_nil]

/-- Settles O25: an event operation writes the flags of its word, and the lists by induction from the last word. -/
theorem eventsCombine : Obligations.EventsCombine := by
  refine ⟨fun s m => ⟨exec_evtNone m s, exec_evtReserved s, exec_evtIgnore m s⟩, fun _ => rfl, fun _ => rfl, ?_,
    fun ws en dir => eventsEffect_dir ws (en, dir), fun ws en dir => eventsEffect_en ws (en, dir)⟩
  rintro i s t hi h w rfl
  cases (exec_event hi s).symm.trans h
  exact eventFlags_decodeEvent w s.en s.dir

/-! ### The phase after an edge (R138) -/

/-- An edge without reset changes `phase` at an expiry only, to the value that `en` selects. -/
theorem step_phase {s : State} (hok : s.Ok) (hr : s.rstIn = false) :
    ∃ t, step s = .next t ∧ t.phase = if s.expire then (if s.en then .stepHold else .idleHold) else s.phase := by
  cases h : s.expire with
  | true => exact ⟨_, step_of_expire hok hr h, by simp⟩
  | false => exact ⟨_, step_of_not_expire hok hr h, s.consumeInput_phase⟩

/-- Settles O26: the phase after an edge is given by `phase`, `expire` and `en`, none of which reads `dir`. -/
theorem dirNeverChangesPhase : Obligations.DirNeverChangesPhase := by
  refine ⟨fun s d hok hr => ?_, fun s => step_phase⟩
  obtain ⟨t, ht, hphase⟩ := step_phase hok hr
  obtain ⟨u, hu, hphase'⟩ := step_phase (s := { s with dir := d }) hok hr
  exact ⟨t, u, ht, hu, hphase.trans hphase'.symm⟩

/-! ### The statements about one event operation -/

/-- Settles O21: the rows of the event decode table without a write. -/
theorem noOpEventsWriteNothing : Obligations.NoOpEventsWriteNothing := by
  refine ⟨fun m s => ⟨decodeEvent_eventWord_false m, exec_evtNone m s⟩, fun s => ⟨rfl, exec_evtReserved s⟩,
    fun m s h₀ h₁ h₂ h₃ => ⟨?_, exec_evtIgnore m s⟩⟩
  exact decodeEvent_eventWord_true_of_wf ((Instr.wf_evtIgnore_iff m).2 ⟨h₀, h₁, h₂, h₃⟩)

/-- Settles O22: both operations write `en`, and the second write replaces the first by the same value. -/
theorem enableAndDisableWriteEn : Obligations.EnableAndDisableWriteEn :=
  ⟨rfl, rfl, fun s => ⟨exec_evtEnable s, exec_evtDisable s, by simp, by simp⟩⟩

/-- Settles O23: toggling is an involution without a fixed point. -/
theorem toggleReversesDir : Obligations.ToggleReversesDir := by
  refine ⟨rfl, fun s h => ?_, fun s h => ?_, toggle_toggle, fun s h => ?_⟩
  · rw [exec_evtToggleDir, h]; rfl
  · rw [exec_evtToggleDir, h]; rfl
  · rw [toggle_toggle, exec_evtToggleDir, Host.Outcome.next.injEq] at h
    exact toggled_ne s.dir (congrArg State.dir h).symm

end Sys2Proof.Machine

/-! ## 60_exceptions.md: a legal machine never stops -/

namespace Sys2Proof.Machine

/-- A legal machine answers any number of edges, under every input, by induction on the edges: the machine after the
first `n` is legal again, and so answers one more (R150). -/
theorem after_completes (n : Nat) {s : State} (hok : s.Ok) : ∃ t, After n s t := by
  induction n with
  | zero => exact ⟨s, rfl⟩
  | succ n ih =>
    obtain ⟨u, hu⟩ := ih
    obtain ⟨t, ht⟩ := step_completes (after_ok hok hu)
    exact ⟨t, after_succ_right_iff.2 ⟨u, hu, ht⟩⟩

/-- Settles O15: the run completes, and legality and the configuration are kept along it. -/
theorem legalMachineNeverStops : Obligations.LegalMachineNeverStops := by
  intro n s hok
  obtain ⟨t, ht⟩ := after_completes n hok
  exact ⟨t, ht, after_ok hok ht, after_cfg ht⟩

end Sys2Proof.Machine

/-! ## 70_reset_and_hazards.md: reset, latencies, and held events -/

namespace Sys2Proof.Machine

/-! ### One edge: the flags, the index and the hold it leaves -/

/-- An edge without reset leaves the flags of its event word, whatever the sequencer does (R10, R191). -/
theorem step_flags {s t : State} (hok : s.Ok) (hr : s.rstIn = false) (h : step s = .next t) :
    (t.en, t.dir) = s.edgeFlags := by
  cases (edgeInClosedForm s hok hr).symm.trans h
  rfl

/-- The event operation of an edge decides `en` after it (R132, R133). -/
theorem step_en {s t : State} (hok : s.Ok) (hr : s.rstIn = false) (h : step s = .next t) :
    t.en = (s.evtOp.eventFlags s.en s.dir).1 := by
  rw [State.evtOp, eventFlags_decodeEvent]
  exact congrArg Prod.fst (step_flags hok hr h)

/-- Inside a hold an edge counts one cycle, and keeps the kind of hold and the index (R103). -/
theorem step_within_hold {s t : State} (hok : s.Ok) (hr : s.rstIn = false) (hexp : s.expire = false)
    (h : step s = .next t) : t.holdCnt = s.holdCnt + 1 ∧ t.phase = s.phase ∧ t.idx = s.idx := by
  cases (step_of_not_expire hok hr hexp).symm.trans h
  exact ⟨rfl, s.consumeInput_phase, s.consumeInput_idx⟩

/-- Any edge of an idle dwell keeps the index (R104, R105). -/
theorem step_idx_of_idleHold {s t : State} (hok : s.Ok) (hr : s.rstIn = false) (hp : s.phase = .idleHold)
    (h : step s = .next t) : t.idx = s.idx := by
  obtain ⟨t', ht', hidx⟩ := indexMovesOnePosition s hok hr
  cases ht'.symm.trans h
  simpa [hp] using hidx

theorem State.toExpiry_le (s : State) : s.toExpiry ≤ s.cfg.holdTicks := Nat.sub_le ..

/-- After any edge the next expiry is 1 to `HOLD_TICKS` edges away (R186). -/
theorem step_toExpiry {s t : State} (hok : s.Ok) (h : step s = .next t) :
    1 ≤ t.toExpiry ∧ t.toExpiry ≤ s.cfg.holdTicks :=
  ⟨State.toExpiry_pos (step_ok hok h), step_cfg h ▸ t.toExpiry_le⟩

/-- A whole hold lies ahead exactly after an expiry (R186). -/
theorem step_toExpiry_eq_iff {s t : State} (hok : s.Ok) (hr : s.rstIn = false) (h : step s = .next t) :
    t.toExpiry = s.cfg.holdTicks ↔ s.expire = true := by
  have ⟨⟨hticks, _⟩, _, hs⟩ := hok
  rw [State.toExpiry, step_cfg h]
  cases hexp : s.expire with
  | true =>
    cases (step_of_expire hok hr hexp).symm.trans h
    simp
  | false =>
    obtain ⟨hcnt, -⟩ := step_within_hold hok hr hexp h
    have hle := State.holdCnt_succ_le hs hexp
    simp only [Bool.false_eq_true, iff_false]
    omega

/-! ### One edge under other flags or another event (R186, R189) -/

theorem State.consumeInput_setFlags (s : State) (f : Bool × Dir) :
    (s.setFlags f).consumeInput = s.consumeInput.setFlags f := by
  unfold State.consumeInput State.setFlags
  cases s.stimulus <;> rfl

/-- At an edge that is not an expiry the sequencer reads neither flag (R186). -/
theorem step_setFlags_of_not_expire {s : State} (hok : s.Ok) (hr : s.rstIn = false) (hexp : s.expire = false)
    (f : Bool × Dir) :
    ∃ t, step s = .next t ∧ step (s.setFlags f) = .next (t.setFlags (s.setFlags f).edgeFlags) := by
  refine ⟨_, step_of_not_expire hok hr hexp, ?_⟩
  rw [step_of_not_expire (s := s.setFlags f) hok hr hexp, State.consumeInput_setFlags]
  rfl

/-- The end of an idle dwell does not read `dir` (R104, R105). -/
theorem State.afterExpiry_setFlags_of_idleHold {s : State} (hp : s.phase = .idleHold) (d : Dir) :
    (s.setFlags (s.en, d)).afterExpiry = s.afterExpiry.setFlags (s.en, d) := by
  unfold State.afterExpiry State.setFlags
  rw [hp]
  cases s.en <;> rfl

/-- At the end of an idle dwell the sequencer does not read `dir` (R189). -/
theorem step_setFlags_of_idleHold {s : State} (hok : s.Ok) (hr : s.rstIn = false) (hexp : s.expire = true)
    (hp : s.phase = .idleHold) (d : Dir) :
    ∃ t, step s = .next t ∧
      step (s.setFlags (s.en, d)) = .next (t.setFlags (s.setFlags (s.en, d)).edgeFlags) := by
  refine ⟨_, step_of_expire hok hr hexp, ?_⟩
  rw [step_of_expire (s := s.setFlags (s.en, d)) hok hr hexp, State.consumeInput_setFlags, ← s.consumeInput_en,
    State.afterExpiry_setFlags_of_idleHold (s.consumeInput_phase.trans hp)]
  rfl

/-- No event word's effect on `en` looks at `dir` (R130). -/
theorem eventEffect_en_congr (w : EventWord) (en : Bool) (d d' : Dir) :
    (eventEffect w en d).1 = (eventEffect w en d').1 := by
  rw [eventEffect_en, eventEffect_en]

theorem State.consumeInput_placeEvent (s : State) (ev : EventWord) :
    (s.placeEvent ev).consumeInput = { s.consumeInput with freeCount := s.freeCount } := by
  unfold State.placeEvent State.consumeInput
  cases s.stimulus <;> rfl

theorem State.afterExpiry_with_freeCount (s : State) (n : Nat) :
    { s with freeCount := n }.afterExpiry = { s.afterExpiry with freeCount := n } := by
  unfold State.afterExpiry
  cases s.phase <;> cases s.en <;> rfl

/-- The event of an edge reaches the flags alone: with another event in its place the edge leaves the same, but for the
flags and the model's own count of free inputs (R9, R186). -/
theorem step_placeEvent {s : State} (hok : s.Ok) (hr : s.rstIn = false) (ev : EventWord) :
    ∃ t, step s = .next t ∧
      step (s.placeEvent ev) =
        .next ({ t with freeCount := s.freeCount }.setFlags (s.placeEvent ev).edgeFlags) := by
  have hr' : (s.placeEvent ev).rstIn = false := by
    rw [State.rstIn, State.nextInput_placeEvent, inputRst_inputWord]
  cases hexp : s.expire with
  | true =>
    refine ⟨_, step_of_expire hok hr hexp, ?_⟩
    rw [step_of_expire (s := s.placeEvent ev) hok hr' hexp, State.consumeInput_placeEvent,
      State.afterExpiry_with_freeCount]
    rfl
  | false =>
    refine ⟨_, step_of_not_expire hok hr hexp, ?_⟩
    rw [step_of_not_expire (s := s.placeEvent ev) hok hr' hexp, State.consumeInput_placeEvent]
    rfl

/-! ### The last cycle of a hold, and the hold after it -/

theorem State.atExpiry_en (s : State) : s.atExpiry.en = (s.flagsAfter (s.toExpiry - 1)).1 := rfl
@[simp] theorem State.atExpiry_phase (s : State) : s.atExpiry.phase = s.phase := s.heldFor_phase _
@[simp] theorem State.atExpiry_idx (s : State) : s.atExpiry.idx = s.idx := s.heldFor_idx _

/-- The state after the expiry that ends the hold in progress (`after_toExpiry`). -/
def State.pastExpiry (s : State) : State := s.atExpiry.consumeInput.afterExpiry.setFlags (s.flagsAfter s.toExpiry)

@[simp] theorem State.pastExpiry_phase (s : State) :
    s.pastExpiry.phase = if s.atExpiry.en then .stepHold else .idleHold := by
  simp [State.pastExpiry]

@[simp] theorem State.pastExpiry_idx (s : State) : s.pastExpiry.idx = s.atExpiry.nextIdx := by
  simp [State.pastExpiry]

/-- A dwell that ends keeps the index (R104, R105). -/
theorem State.nextIdx_of_idleHold {s : State} (h : s.phase = .idleHold) : s.nextIdx = s.idx := by
  rw [State.nextIdx, h]

theorem State.coil_of_idleHold {s : State} (hs : s.Legal) (h : s.phase = .idleHold) : s.coil = 0#4 := by
  obtain ⟨-, -, hidle, -⟩ := hs
  exact (hidle h).2

/-- A legal hold runs to its last cycle and then past its expiry, without reset (R111). -/
theorem after_pastExpiry {s : State} (hok : s.Ok) (hr : NoReset s.toExpiry s) :
    After (s.toExpiry - 1) s s.atExpiry ∧ s.atExpiry.expire = true ∧ After s.toExpiry s s.pastExpiry := by
  obtain ⟨hrun, hexp⟩ := after_atExpiry hok hr
  exact ⟨hrun, hexp, after_toExpiry hok hr⟩

/-- An expiry that finds `en` = 1 begins a step hold, which shows the entry at its index (R102, R105 to R107). -/
theorem pastExpiry_of_enabled {s : State} (hok : s.Ok) (hr : NoReset s.toExpiry s) (hen : s.atExpiry.en = true) :
    s.pastExpiry.phase = .stepHold ∧ s.pastExpiry.coil = s.pastExpiry.memRead s.pastExpiry.idx := by
  have ⟨_, _, hlegal⟩ := after_ok hok (after_toExpiry hok hr)
  have hphase : s.pastExpiry.phase = .stepHold := by simp [hen]
  exact ⟨hphase, State.coil_of_stepHold hlegal hphase⟩

/-- An expiry that finds `en` = 0 begins a dwell, which shows 0 (R102, R104, R108, R109). -/
theorem pastExpiry_of_disabled {s : State} (hok : s.Ok) (hr : NoReset s.toExpiry s) (hen : s.atExpiry.en = false) :
    s.pastExpiry.phase = .idleHold ∧ s.pastExpiry.coil = 0#4 := by
  have ⟨_, _, hlegal⟩ := after_ok hok (after_toExpiry hok hr)
  have hphase : s.pastExpiry.phase = .idleHold := by simp [hen]
  exact ⟨hphase, State.coil_of_idleHold hlegal hphase⟩

/-! ### The flags and the queued words over a run -/

/-- The flags after a run without reset are those of its event words, by induction on the edges (R191). -/
theorem after_flags {n : Nat} {s t : State} (hok : s.Ok) (hr : NoReset n s) (h : After n s t) :
    (t.en, t.dir) = s.flagsAfter n := by
  induction n generalizing t with
  | zero => rw [after_zero_iff.1 h]; rfl
  | succ n ih =>
    obtain ⟨u, hu, ht⟩ := after_succ_right_iff.1 h
    have hflags : (u.en, u.dir) = s.flagsAfter n := ih (noReset_mono n.le_succ hr) hu
    rw [step_flags (after_ok hok hu) (after_rstIn hr n.lt_succ_self hu) ht, State.edgeFlags, after_nextInput hu,
      s.flagsAfter_succ, ← hflags]

theorem State.consumeInput_stimulus (s : State) : s.consumeInput.stimulus = s.stimulus.tail := by
  unfold State.consumeInput
  cases h : s.stimulus <;> simp

/-- A run takes one queued word off per edge. -/
theorem after_stimulus {n : Nat} {s t : State} (h : After n s t) : t.stimulus = s.stimulus.drop n := by
  induction n generalizing t with
  | zero => rw [after_zero_iff.1 h, List.drop_zero]
  | succ n ih =>
    obtain ⟨u, hu, ht⟩ := after_succ_right_iff.1 h
    obtain ⟨hstim, -⟩ := step_inputs ht
    rw [hstim, State.consumeInput_stimulus, ih hu, List.tail_drop]

/-- Queued words are the inputs of their edges, so none of them with `rst` = 1 means no reset (R83). -/
theorem noReset_of_queued {n : Nat} {s : State} (hn : n ≤ s.stimulus.length)
    (h : ∀ w ∈ s.stimulus.take n, inputRst w = false) : NoReset n s := by
  intro k hk
  rw [State.inputAt_of_lt (hk.trans_le hn)]
  exact h _ (List.mem_take_iff_getElem.2 ⟨k, by omega, rfl⟩)

/-- The events of a run over queued words are those of the words (R83). -/
theorem State.events_of_queued {n : Nat} {s : State} (hn : n ≤ s.stimulus.length) :
    s.events n = (s.stimulus.take n).map inputEvent := by
  refine List.ext_getElem (by simp [State.events, hn]) fun k hk _ => ?_
  have hk' : k < n := by simpa [State.events] using hk
  simp [State.events, State.inputAt_of_lt (hk'.trans_le hn)]

/-! ### The statements -/

/-- Settles O10: the reset edge writes every register, and takes its own input word off. -/
theorem resetEdgeGivesResetValues : Obligations.ResetEdgeGivesResetValues := by
  intro s hc hk hr
  rw [step_of_rst hc hk hr, State.applyReset, State.consumeInput_cfg]

/-- Settles O43: the reset state begins an idle dwell of `HOLD_TICKS` cycles at index 0, which shows 0 until its expiry,
and the expiry finds the flags that the events before it left. -/
theorem firstStartAfterReset : Obligations.FirstStartAfterReset := by
  intro c ws hc hk hlen hrst
  generalize hs : ({ State.resetWith c with stimulus := ws } : State) = s
  have hok : s.Ok := hs ▸ ⟨hc, hk, State.legal_resetWith c⟩
  have hticks : s.toExpiry = c.holdTicks := hs ▸ rfl
  have hphase : s.phase = .idleHold := hs ▸ rfl
  have hflags : (s.en, s.dir) = (false, .cw) := hs ▸ rfl
  have hidx : s.atExpiry.nextIdx = 0#3 := by
    rw [State.nextIdx_of_idleHold (s.atExpiry_phase.trans hphase), s.atExpiry_idx, ← hs]
    rfl
  have hqueue : s.stimulus = ws := hs ▸ rfl
  have hlen' : s.stimulus.length = s.toExpiry := by rw [hqueue, hlen, hticks]
  have hr : NoReset s.toExpiry s := noReset_of_queued hlen'.ge fun w hw => hrst w (hqueue ▸ List.mem_of_mem_take hw)
  obtain ⟨hlast, hexp, hpast⟩ := after_pastExpiry hok hr
  rw [← hticks]
  refine ⟨fun j hj => ?_, fun hen => ?_⟩
  · have ⟨_, _, hlegal⟩ := hok
    refine ⟨_, after_heldFor hok (noReset_mono hj.le hr) hj,
      (s.heldFor_coil j).trans (State.coil_of_idleHold hlegal hphase), (State.expire_heldFor_iff hj).trans ?_⟩
    omega
  · have hen' : s.atExpiry.en = true := by
      rwa [State.atExpiry_en, State.flagsAfter, State.events_of_queued (hlen' ▸ Nat.sub_le ..), hqueue, hflags]
    obtain ⟨hnext, hcoil⟩ := pastExpiry_of_enabled hok hr hen'
    refine ⟨⟨_, dirBit s.atExpiry.dir, s.atExpiry.last, hlast, ?_⟩,
      _, hpast, hnext, s.pastExpiry_idx.trans hidx, ?_⟩
    · rw [State.seqOp_eq, State.atExpiry_phase, hphase, hexp, hen']
      rfl
    · rw [hcoil, after_memRead hpast, State.pastExpiry_idx, hidx, ← hs]
      rfl

/-- Settles O44: SEQ_HOLD reads no flag, no edge's sequencer operation sees the edge's own event, and the hold after the
edge expires in its last cycle only. -/
theorem eventActsAtNextExpiry : Obligations.EventActsAtNextExpiry := by
  refine ⟨fun s en d hok hr hexp => ?_, fun s ev hok hr => ?_, fun s hok hr => ?_⟩
  · obtain ⟨t, ht, hu⟩ := step_setFlags_of_not_expire hok hr hexp (en, d)
    exact ⟨t, _, ht, hu, rfl, rfl, rfl, rfl, rfl⟩
  · obtain ⟨t, ht, hu⟩ := step_placeEvent hok hr ev
    exact ⟨t, _, ht, hu, rfl, rfl, rfl, rfl, rfl⟩
  · obtain ⟨t, ht⟩ := step_completes hok
    have htok := step_ok hok ht
    obtain ⟨hpos, hle⟩ := step_toExpiry hok ht
    refine ⟨t, ht, hpos, hle, step_toExpiry_eq_iff hok hr ht, fun hnr =>
      ⟨fun j hj => ?_, _, after_atExpiry htok hnr⟩⟩
    refine ⟨_, after_heldFor htok (noReset_mono (by omega) hnr) (by omega), ?_⟩
    rw [← Bool.not_eq_true, State.expire_heldFor_iff (by omega)]
    omega

/-- Settles O45: the expiry finds `en` = 1 and so begins a step hold; out of a dwell it keeps the index, and inside a
step hold every state up to it is in that hold. -/
theorem startLatency : Obligations.StartLatency := by
  intro s t hok hr hev h hnr
  have htok := step_ok hok h
  obtain ⟨hpos, hle⟩ := step_toExpiry hok h
  have hen : t.en = true := by rw [step_en hok hr h, hev]; rfl
  obtain ⟨hlast, hexp, hpast⟩ := after_pastExpiry htok hnr
  refine ⟨hpos, hle, hen, _, _, hlast, hexp, hpast, fun hen' => ?_⟩
  obtain ⟨hphase, hcoil⟩ := pastExpiry_of_enabled htok hnr hen'
  refine ⟨hphase, hcoil, fun hp => ?_, fun hp hexp' j hj => ?_⟩
  · cases hp' : s.phase with
    | idleHold =>
      left
      rw [State.pastExpiry_idx, State.nextIdx_of_idleHold hp, State.atExpiry_idx, step_idx_of_idleHold hok hr hp' h]
    | stepHold => exact .inr rfl
  · obtain rfl | hlt := Nat.eq_or_lt_of_le hj
    · exact ⟨_, hpast, hphase, hcoil⟩
    · obtain ⟨-, hkeep, -⟩ := step_within_hold hok hr hexp' h
      have hrun := after_heldFor htok (noReset_mono hj hnr) hlt
      have ⟨_, _, hlegal'⟩ := after_ok htok hrun
      have hheld := (t.heldFor_phase j).trans (hkeep.trans hp)
      exact ⟨_, hrun, hheld, State.coil_of_stepHold hlegal' hheld⟩

/-- Settles O46: the hold in progress keeps its index and its whole pattern, and the expiry finds `en` = 0, so that it
begins a dwell, one advance on where it ends a step hold. -/
theorem stopLatency : Obligations.StopLatency := by
  intro s t hok hr hev h hnr
  have htok := step_ok hok h
  obtain ⟨hpos, hle⟩ := step_toExpiry hok h
  have hen : t.en = false := by rw [step_en hok hr h, hev]; rfl
  obtain ⟨hlast, hexp, hpast⟩ := after_pastExpiry htok hnr
  refine ⟨hpos, hle, hen, fun hp hexp' => ?_, fun hp j hj => ?_, _, _, hlast, hexp, hpast,
    fun hen' => ?_⟩
  · obtain ⟨-, hphase, hidx⟩ := step_within_hold hok hr hexp' h
    exact ⟨hphase.trans hp, hidx⟩
  · have ⟨_, _, hlegal⟩ := htok
    refine ⟨_, after_heldFor htok (noReset_mono hj.le hnr) hj, t.heldFor_idx j, ?_⟩
    rw [t.heldFor_coil, State.coil_of_stepHold hlegal hp, State.memRead_congr (step_cfg h)]
  · obtain ⟨hphase, hcoil⟩ := pastExpiry_of_disabled htok hnr hen'
    refine ⟨hcoil, hphase, fun hp => ?_⟩
    rw [State.pastExpiry_idx, State.nextIdx_of_stepHold (t.atExpiry_phase.trans hp), State.atExpiry_idx]

/-- Settles O47: neither SEQ_HOLD nor the end of a dwell reads `dir`, and the end of a step hold advances by it. -/
theorem dirActsAtStepExpiryOnly : Obligations.DirActsAtStepExpiryOnly := by
  intro s d hok hr
  change ∃ t u, step s = .next t ∧ step (s.setFlags (s.en, d)) = .next u ∧ _
  have hen : (s.setFlags (s.en, d)).edgeFlags.1 = s.edgeFlags.1 := eventEffect_en_congr ..
  have hsame {t : State} (ht : step s = .next t) :
      t.setFlags (s.setFlags (s.en, d)).edgeFlags = { t with dir := (s.setFlags (s.en, d)).edgeFlags.2 } := by
    rw [State.setFlags, hen, ← step_flags hok hr ht]
  cases hexp : s.expire with
  | false =>
    obtain ⟨t, ht, hu⟩ := step_setFlags_of_not_expire hok hr hexp (s.en, d)
    exact ⟨t, _, ht, hu, fun _ => hsame ht, nofun⟩
  | true =>
    cases hp : s.phase with
    | idleHold =>
      obtain ⟨t, ht, hu⟩ := step_setFlags_of_idleHold hok hr hexp hp d
      exact ⟨t, _, ht, hu, fun _ => hsame ht, nofun⟩
    | stepHold =>
      refine ⟨_, _, step_of_expire hok hr hexp, step_of_expire (s := s.setFlags (s.en, d)) hok hr hexp, by simp,
        fun _ _ => ⟨?_, ?_⟩⟩
      · simp [State.nextIdx_of_stepHold hp]
      · have hp' : (s.setFlags (s.en, d)).phase = .stepHold := hp
        simp [State.nextIdx_of_stepHold hp']

/-- Settles O49, by induction on the edges (`after_flags`). -/
theorem flagsFollowEventsAlone : Obligations.FlagsFollowEventsAlone := by
  intro n s hok hr
  obtain ⟨t, ht⟩ := after_completes n hok
  exact ⟨t, ht, after_flags hok hr ht⟩

/-- Settles O48: the run's event words are `k` copies of the one, and `k` toggles count modulo 2. -/
theorem heldEventCountsEachEdge : Obligations.HeldEventCountsEachEdge := by
  intro k ev rest s hok hs
  have hlen : (List.replicate k (inputWord false ev)).length = k := List.length_replicate
  have hn : k ≤ s.stimulus.length := by rw [hs, List.length_append]; omega
  have htake : s.stimulus.take k = List.replicate k (inputWord false ev) := by rw [hs, List.take_left' hlen]
  have hr : NoReset k s := noReset_of_queued hn fun w hw => by
    rw [htake] at hw
    rw [List.eq_of_mem_replicate hw, inputRst_inputWord]
  have hevents : s.events k = List.replicate k ev := by
    rw [State.events_of_queued hn, htake, List.map_replicate, inputEvent_inputWord]
  obtain ⟨t, ht⟩ := after_completes k hok
  have hflags : (t.en, t.dir) = eventsEffect (List.replicate k ev) (s.en, s.dir) :=
    (after_flags hok hr ht).trans (by rw [State.flagsAfter, hevents])
  refine ⟨t, ht, ?_, hflags, fun htoggle => ?_⟩
  · rw [after_stimulus ht, hs, List.drop_left' hlen]
  · have hdir := (congrArg Prod.snd hflags).trans (eventsEffect_dir ..)
    rwa [List.filter_replicate_of_pos (by simpa using htoggle), List.length_replicate] at hdir

end Sys2Proof.Machine
